-- ==== Sys2Proof/Word.lean ====
section
/-! DEFINITION. The bit-vector types the spec treats as bits: a byte of the framebuffer or of a bus, a 16-bit operand
field, and the 80-bit command word (`30_encoding.md` rules R70, R71). -/

namespace Sys2Proof

/-- A byte: of the framebuffer, of the command port, of the panel bus. -/
abbrev Byte := BitVec 8

/-- One of the operand fields `P0` to `P3` of a command word (R71). -/
abbrev Field16 := BitVec 16

/-- A host command word, bit 79 the most significant (R70, R71). -/
abbrev Word80 := BitVec 80

end Sys2Proof
end

