-- ==== Sys2Proof/Syntax.lean ====
section
/-! DEFINITION. The instructions: one constructor for each row of `spec/opcode_table.json`. The first ten are the host
operations of `30_encoding.md` R73 and R75; the last seventeen are the panel bus commands of
`43_panel_bus_commands.md` R190, the block's own transfers toward the panel controller. -/

namespace Sys2Proof

/-- A pixel colour: bit 0 is dark, bit 1 is light (R22, R78). -/
inductive Colour where
  | dark
  | light
deriving DecidableEq, Repr, Inhabited

/-- The modifier `M` of `RECT` (R78): 0 outline, 1 filled. -/
inductive FillMode where
  | outline
  | filled
deriving DecidableEq, Repr, Inhabited

/-- The modifier `M` of `REFRESH` (R78): 0 `Partial`, 1 `Full`. -/
inductive RefreshMode where
  | partialRefresh
  | fullRefresh
deriving DecidableEq, Repr, Inhabited

/-- The two waveform tables (R31, R155). -/
inductive Waveform where
  | fullUpdate
  | partialUpdate
deriving DecidableEq, Repr, Inhabited

/-- The instructions. Coordinates are the integers the operand fields spell (`sext_16`, R76); sizes and the glyph size
are the naturals they spell (`zext_16`, `zext_8`, R77); `text` carries its payload bytes, whose number is `len` (R79). -/
inductive Instr where
  /-- `CLEAR` (R101). -/
  | clear
  /-- `SETPX x, y, k` (R102). -/
  | setpx (x y : Int) (k : Colour)
  /-- `GETPX x, y` (R103). -/
  | getpx (x y : Int)
  /-- `LINE x0, y0, x1, y1, k` (R122). -/
  | line (x0 y0 x1 y1 : Int) (k : Colour)
  /-- `RECT x, y, w, h, k, m` (R126). -/
  | rect (x y : Int) (w h : Nat) (k : Colour) (m : FillMode)
  /-- `TEXT x, y, gs, k, bytes` (R131). -/
  | text (x y : Int) (gs : Nat) (k : Colour) (bytes : List Byte)
  /-- `INIT` (R157). -/
  | init
  /-- `REFRESH mode` (R160). -/
  | refresh (mode : RefreshMode)
  /-- `SLEEP` (R166). -/
  | sleep
  /-- `WAKEUP` (R167). -/
  | wakeup
  /-- Bus command `SW_RESET` (R192). -/
  | swReset
  /-- Bus command `DRIVER_OUTPUT_CONTROL` (R193). -/
  | driverOutputControl
  /-- Bus command `BOOSTER_SOFT_START` (R194). -/
  | boosterSoftStart
  /-- Bus command `WRITE_VCOM` (R195). -/
  | writeVcom
  /-- Bus command `DUMMY_LINE_PERIOD` (R196). -/
  | dummyLinePeriod
  /-- Bus command `GATE_TIME` (R197). -/
  | gateTime
  /-- Bus command `DATA_ENTRY_MODE` (R198). -/
  | dataEntryMode
  /-- Bus command `WRITE_LUT`, with the table it carries (R199). -/
  | writeLut (t : Waveform)
  /-- Bus command `SET_RAM_X_RANGE` (R200). -/
  | setRamXRange
  /-- Bus command `SET_RAM_Y_RANGE` (R201). -/
  | setRamYRange
  /-- Bus command `SET_RAM_X_COUNTER` (R202). -/
  | setRamXCounter
  /-- Bus command `SET_RAM_Y_COUNTER` (R203). -/
  | setRamYCounter
  /-- Bus command `WRITE_RAM` (R204). -/
  | writeRam
  /-- Bus command `DISPLAY_UPDATE_CONTROL_2` (R205). -/
  | displayUpdateControl2
  /-- Bus command `MASTER_ACTIVATION` (R206). -/
  | masterActivation
  /-- Bus command `TERMINATE_FRAME` (R207). -/
  | terminateFrame
  /-- Bus command `DEEP_SLEEP` (R208). -/
  | deepSleep
deriving DecidableEq, Repr, Inhabited

/-- The ten operations a host can issue (R73), against the seventeen transfers that only the block itself sends (R190). -/
def Instr.isHostOp : Instr → Bool
  | .clear | .setpx .. | .getpx .. | .line .. | .rect .. | .text .. => true
  | .init | .refresh _ | .sleep | .wakeup => true
  | .swReset | .driverOutputControl | .boosterSoftStart | .writeVcom | .dummyLinePeriod | .gateTime => false
  | .dataEntryMode | .writeLut _ | .setRamXRange | .setRamYRange | .setRamXCounter | .setRamYCounter => false
  | .writeRam | .displayUpdateControl2 | .masterActivation | .terminateFrame | .deepSleep => false

end Sys2Proof
end

