-- ==== Sys2Proof/Config.lean ====
section
/-! DEFINITION. The configuration record `Cfg` of `00_scope.md` rule R5 and the model's free values. A field the source
leaves OPEN is known of the machine at reset only through the constraints of R5; a field the source fixes (R7) has the
source's value there. -/

namespace Sys2Proof

/-- A pin level. -/
inductive Level where
  | low
  | high
deriving DecidableEq, Repr, Inhabited

/-- The seventeen bus command codes `CMD_*` (R190). -/
structure CmdCodes where
  swReset : Byte := 1
  driverOutputControl : Byte := 2
  boosterSoftStart : Byte := 3
  writeVcom : Byte := 4
  dummyLinePeriod : Byte := 5
  gateTime : Byte := 6
  dataEntryMode : Byte := 7
  writeLut : Byte := 8
  setRamXRange : Byte := 9
  setRamYRange : Byte := 10
  setRamXCounter : Byte := 11
  setRamYCounter : Byte := 12
  writeRam : Byte := 13
  displayUpdateControl2 : Byte := 14
  masterActivation : Byte := 15
  terminateFrame : Byte := 16
  deepSleep : Byte := 17
deriving DecidableEq, Repr, Inhabited

/-- The codes in the order of R190's table. -/
def CmdCodes.toList (c : CmdCodes) : List Byte :=
  [c.swReset, c.driverOutputControl, c.boosterSoftStart, c.writeVcom, c.dummyLinePeriod, c.gateTime,
   c.dataEntryMode, c.writeLut, c.setRamXRange, c.setRamYRange, c.setRamXCounter, c.setRamYCounter,
   c.writeRam, c.displayUpdateControl2, c.masterActivation, c.terminateFrame, c.deepSleep]

/-- The twelve payload parameters `PAY_*` (R191). -/
structure Payloads where
  driverOutputControl : List Byte := []
  boosterSoftStart : List Byte := []
  writeVcom : List Byte := []
  dummyLinePeriod : List Byte := []
  gateTime : List Byte := []
  dataEntryMode : List Byte := []
  ramXRange : List Byte := []
  ramYRange : List Byte := []
  ramXCounter : List Byte := []
  ramYCounter : List Byte := []
  displayUpdateControl2 : List Byte := []
  deepSleep : List Byte := []
deriving DecidableEq, Repr, Inhabited

/-- The payloads as a list. -/
def Payloads.toList (p : Payloads) : List (List Byte) :=
  [p.driverOutputControl, p.boosterSoftStart, p.writeVcom, p.dummyLinePeriod, p.gateTime, p.dataEntryMode,
   p.ramXRange, p.ramYRange, p.ramXCounter, p.ramYCounter, p.displayUpdateControl2, p.deepSleep]

/-- The fields of `Cfg` that the source leaves OPEN, with the constraints of R5. The defaults only show that the type has
a member; no rule and no statement uses them. -/
structure OpenParams where
  /-- Panel width in pixels. -/
  W : Nat := 8
  /-- Panel height in pixels. -/
  H : Nat := 1
  /-- The full-update waveform table. -/
  lutFull : List Byte := List.replicate 30 0
  /-- The partial-update waveform table. -/
  lutPartial : List Byte := List.replicate 30 0
  /-- The bus command codes. -/
  cmd : CmdCodes := {}
  /-- The bus command payloads. -/
  pay : Payloads := {}
  W_lower : 8 ≤ W := by decide
  W_upper : W ≤ 32760 := by decide
  W_mod : W % 8 = 0 := by decide
  H_lower : 1 ≤ H := by decide
  H_upper : H ≤ 32767 := by decide
  lutFull_length : lutFull.length = 30 := by decide
  lutPartial_length : lutPartial.length = 30 := by decide
  cmd_distinct : cmd.toList.Nodup := by decide
  pay_bound : ∀ p ∈ pay.toList, p.length ≤ 255 := by decide
deriving DecidableEq, Repr, Inhabited

/-- The configuration record (R5). The defaults of the last four fields are the source's values (R5, R7). -/
structure Cfg extends OpenParams where
  /-- The forced-full interval. -/
  N : Nat := 10
  /-- Duration of each stage of the reset pulse, in milliseconds. -/
  tResetMs : Nat := 200
  /-- Busy-poll interval, in milliseconds. -/
  tPollMs : Nat := 10
  /-- The most samples one busy wait takes. -/
  pollMax : Nat := 500
  N_lower : 1 ≤ N := by decide
  pollMax_lower : 1 ≤ pollMax := by decide
deriving DecidableEq, Repr, Inhabited

/-- `FB_BYTES = W * H / 8` (R6). -/
def Cfg.fbBytes (c : Cfg) : Nat := c.W * c.H / 8

/-- `ROW_BYTES = W / 8` (R6). -/
def Cfg.rowBytes (c : Cfg) : Nat := c.W / 8

/-- The bytes of a waveform table (R31). -/
def Cfg.lut (c : Cfg) : Waveform → List Byte
  | .fullUpdate => c.lutFull
  | .partialUpdate => c.lutPartial

/-- FREE VALUE: the OPEN parameters of the machine at hand (R5; `92_eei_decisions.md` D27, D28, D29). -/
opaque Config.openParams : OpenParams

/-- FREE VALUE: the level of the BUSY pin at the `n`th sample since reset, where State gives no sample (R153, U8). -/
opaque Config.busySample : Nat → Level

/-- The configuration of the machine at reset: OPEN fields free, the others at the source's values (R5, R7). -/
def Config.machine : Cfg := { Config.openParams with }

end Sys2Proof
end

