-- ==== Sys2Proof/Machine/State.lean ====
section
/-! DEFINITION. The machine's state (`10_state.md` R22 to R36), the reasons a step can stop, and the state after hardware
reset (R36). The last five fields are the model's own: the parameters of the step relation (R34), held as data. -/

namespace Sys2Proof.Machine

/-- `DRV_STATE` (R23). -/
inductive DrvState where
  | uninitialized
  | ready
  | sleeping
deriving DecidableEq, Repr, Inhabited

/-- The status codes (R220). -/
inductive Status where
  | ok
  | notInitialized
  | invalidParameter
  | hardwareTimeout
  | initFailed
deriving DecidableEq, Repr, Inhabited

/-- The value of `FLAGS.LUT_LAST`: the table sent last (R26). -/
inductive LutLast where
  | never
  | full
  | part
deriving DecidableEq, Repr, Inhabited

/-- `SR2 FLAGS` by its fields (R26); bits [7:4] read as 0 and are not stored (U12). -/
structure Flags where
  tmoLast : Bool
  tmoSticky : Bool
  lutLast : LutLast
deriving DecidableEq, Repr, Inhabited

/-- An output pin: the level last driven, or undriven since hardware reset (R30). -/
inductive Pin where
  | undriven
  | driven (l : Level)
deriving DecidableEq, Repr, Inhabited

/-- The events of the output trace (R32). -/
inductive Event where
  /-- `RST(l)`. -/
  | rst (l : Level)
  /-- `DELAY(ms)`. -/
  | delay (ms : Nat)
  /-- `BYTE(dc, b)`. -/
  | byte (dc : Level) (b : Byte)
  /-- `POLL(v)`. -/
  | poll (v : Level)
  /-- `LOG(HardwareTimeout)`. -/
  | logTimeout
deriving DecidableEq, Repr, Inhabited

/-- The framebuffer's bytes by index (R50): the bytes that differ from what an unlisted index reads as. -/
abbrev Memory := List Host.Cell

/-- What an index that is not listed reads as: all light, the value `CLEAR` and `INIT` write (R101, R157).
DESIGN CHOICE for the time before the first `INIT` (R36 leaves the contents unspecified): log entry 5, unsafe. -/
def Memory.unlisted : Byte := 0xFF#8

/-- The state of the block. -/
structure State where
  /-- `FB` (R22). -/
  fb : Memory
  /-- `DRV_STATE`, read as SR3 (R23, R27). -/
  drv : DrvState
  /-- `REFRESH_COUNTER`, SR4 (R28): a natural number without an upper bound. -/
  refreshCounter : Nat
  /-- `STATUS`, SR0 (R24). -/
  status : Status
  /-- `RESULT`, SR1 (R25). -/
  result : Byte
  /-- `FLAGS`, SR2 (R26). -/
  flags : Flags
  /-- `RST_N` (R30). -/
  rstN : Pin
  /-- `DC` (R30). -/
  dc : Pin
  /-- `OUT`, oldest event first (R32). -/
  out : List Event
  /-- MODEL'S OWN: the configuration, a parameter of the step (R5, R34); no step changes it. -/
  cfg : Cfg
  /-- MODEL'S OWN: the next answers of the BUSY pin that the environment has fixed (R34, U8); past its end a sample is
  the free value `Config.busySample`. -/
  busyIn : List Level
  /-- MODEL'S OWN: how many samples of BUSY have been taken since reset (indexes `Config.busySample`). -/
  pollCount : Nat
  /-- MODEL'S OWN: the bytes the host has written to the command port and the block has not consumed (R61, R70). -/
  port : List Byte
  /-- MODEL'S OWN: a panel bus transfer handed to the bus-framing unit alone (its command byte, then the bytes of a
  waveform table), empty when there is none. Empty at reset and after every step (R21): log entry 3. -/
  busRequest : List Byte
deriving DecidableEq, Repr

/-- The reasons a step stops with a fault. -/
inductive Fault where
  /-- Raised by a step that finds in `busRequest` a command byte that is none of the seventeen codes (R209: the block
  sends no other). Safe: the model stops where the spec gives no transfer, and no run from reset reaches it. -/
  | unknownBusCommand
deriving DecidableEq, Repr

/-- The reasons a step is refused. -/
inductive Refusal where
  /-- Raised by an arm of `exec` whose instruction has no meaning yet; no arm does. Safe. -/
  | notModelled (mnemonic : String)
deriving DecidableEq, Repr

/-- What one step answers. -/
abbrev Result := Host.Outcome State Fault Refusal

/-- The launch state of R36 for a configuration and for the unspecified contents of `FB`. -/
def State.resetWith (c : Cfg) (fb : Memory) : State where
  fb := fb
  drv := .uninitialized
  refreshCounter := 0
  status := .ok
  result := 0x00#8
  flags := { tmoLast := false, tmoSticky := false, lutLast := .never }
  rstN := .undriven
  dc := .undriven
  out := []
  cfg := c
  busyIn := []
  pollCount := 0
  port := []
  busRequest := []

/-- The machine right after hardware reset (R36, R250). -/
def State.reset : State := State.resetWith Config.machine []

end Sys2Proof.Machine
end

