-- ==== Sys2Proof/Machine/Flags.lean ====
section
/-! DEFINITION. The status registers SR0 to SR4 as the host reads them (`10_state.md` R24 to R29) and the ways the block
writes `FLAGS` (R26). -/

namespace Sys2Proof.Machine

/-- The number of a status code (R220). -/
def Status.code : Status → Byte
  | .ok => 0#8
  | .notInitialized => 1#8
  | .invalidParameter => 2#8
  | .hardwareTimeout => 3#8
  | .initFailed => 4#8

/-- The number of a driver state (R27). -/
def DrvState.code : DrvState → Byte
  | .uninitialized => 0#8
  | .ready => 1#8
  | .sleeping => 2#8

/-- The number in `FLAGS.LUT_LAST` (R26). -/
def LutLast.code : LutLast → Byte
  | .never => 0#8
  | .full => 1#8
  | .part => 2#8

/-- `SR2 FLAGS` as a byte: bit 0 `TMO_LAST`, bit 1 `TMO_STICKY`, bits [3:2] `LUT_LAST`, bits [7:4] zero (R26). -/
def Flags.toByte (f : Flags) : Byte :=
  (if f.tmoLast then 1#8 else 0#8) ||| (if f.tmoSticky then 2#8 else 0#8) ||| (f.lutLast.code <<< 2)

/-- The number the host reads from status register `SRn` (R24 to R29); there are five. -/
def readSR (n : Nat) (s : State) : Option Nat :=
  match n with
  | 0 => some s.status.code.toNat
  | 1 => some s.result.toNat
  | 2 => some s.flags.toByte.toNat
  | 3 => some s.drv.code.toNat
  | 4 => some s.refreshCounter
  | _ => none

/-- `FLAGS` after a busy wait that ended on a low sample (R154). -/
def Flags.waitEnded (f : Flags) : Flags := { f with tmoLast := false }

/-- `FLAGS` after a busy wait that timed out (R154). -/
def Flags.waitTimedOut (f : Flags) : Flags := { f with tmoLast := true, tmoSticky := true }

/-- What `LUT_LAST` shows after a table was sent (R155). -/
def lutLastOf : Waveform → LutLast
  | .fullUpdate => .full
  | .partialUpdate => .part

/-- `FLAGS` after a waveform table was sent (R155). -/
def Flags.lutSent (f : Flags) (t : Waveform) : Flags := { f with lutLast := lutLastOf t }

end Sys2Proof.Machine
end

