-- ==== Sys2Proof/Machine/Operands.lean ====
section
/-! DEFINITION. How a pixel's coordinates name a bit of the framebuffer (`20_memory.md` R51 to R53) and the helpers on
coordinates that the operations share. -/

namespace Sys2Proof.Machine

/-- A pair of coordinates, exact integers (R121). -/
abbrev Point := Int × Int

/-- `InRange(x, y)` (R53). -/
def inRange (c : Cfg) (x y : Int) : Bool :=
  decide (0 ≤ x) && decide (x < c.W) && decide (0 ≤ y) && decide (y < c.H)

/-- `byte_index(x, y) = (y * W + x) / 8` (R51). -/
def byteIndex (c : Cfg) (x y : Int) : Nat := ((y * c.W + x) / 8).toNat

/-- `bit_offset(x) = x mod 8`; 0 names the most significant bit (R51). -/
def bitOffset (x : Int) : Nat := (x % 8).toNat

/-- `mask(x) = 0x80 >> (x mod 8)` (R51). -/
def pixelMask (x : Int) : Byte := 0x80#8 >>> bitOffset x

/-- The byte `b` with the bits of `m` at colour `k`, the other bits kept (R55). -/
def paintBits (k : Colour) (m b : Byte) : Byte :=
  match k with
  | .light => b ||| m
  | .dark => b &&& ~~~m

/-- A colour as `RESULT` shows it: 0x00 dark, 0x01 light (R25). -/
def colourByte : Colour → Byte
  | .dark => 0x00#8
  | .light => 0x01#8

/-- The integers `a .. a + n - 1` that lie in `0 .. bound - 1`, in increasing order (R127: a rectangle is computed as its
intersection with the panel). -/
def clippedRange (a : Int) (n bound : Nat) : List Int :=
  (List.range (min (a + n) bound - max a 0).toNat).map fun i : Nat => max a 0 + (i : Int)

end Sys2Proof.Machine
end

