-- ==== Sys2Proof/Machine/Ops.lean ====
section
/-! DEFINITION. The named operations over memory, registers and the outward interface that the meanings share: the
framebuffer byte accesses (`20_memory.md` R55), ending an operation (`60_exceptions.md` R226, R227), `Plot`
(`40_framebuffer_ops.md` R104), and the sub-sequences `SendCmd`, `SendData`, `ResetPulse`, `Poll`, `WaitBusy`, `LoadLUT`
(`42_protocol_ops.md` R150 to R155). -/

namespace Sys2Proof.Machine

/-! Framebuffer memory. -/

/-- `MemRead(i, 1)` (R55). -/
def Memory.read : Memory → Nat → Byte
  | [], _ => Memory.unlisted
  | (a, b) :: m, i => if a = i then b else Memory.read m i

/-- `MemWrite(i, 1, b)` (R55), keeping the canonical form. -/
def Memory.write : Memory → Nat → Byte → Memory
  | [], i, b => if b = Memory.unlisted then [] else [(i, b)]
  | (a, c) :: m, i, b =>
    if i < a then (if b = Memory.unlisted then (a, c) :: m else (i, b) :: (a, c) :: m)
    else if i = a then (if b = Memory.unlisted then m else (i, b) :: m)
    else (a, c) :: Memory.write m i b

/-- Every index listed is above `lo`, and the indices rise. -/
def Memory.risingFrom : Nat → Memory → Bool
  | _, [] => true
  | lo, (a, _) :: m => decide (lo ≤ a) && Memory.risingFrom (a + 1) m

/-- The canonical form: indices strictly rising, and no byte listed that an unlisted index reads as. -/
def Memory.wf (m : Memory) : Bool :=
  Memory.risingFrom 0 m && m.all fun cell => decide (cell.2 ≠ Memory.unlisted)

/-- Every index listed is an index of a framebuffer of `n` bytes (R50). -/
def Memory.within (n : Nat) (m : Memory) : Bool := m.all fun cell => decide (cell.1 < n)

/-- `for i in 0 .. n-1: MemWrite(i, 1, 0xFF)` (R101, R157). -/
def Memory.fillLight (n : Nat) (m : Memory) : Memory :=
  (List.range n).foldl (fun m i => Memory.write m i 0xFF#8) m

/-- The bytes `FB[0]` to `FB[n-1]` in increasing index (R58). -/
def Memory.bytes (n : Nat) (m : Memory) : List Byte := (List.range n).map (Memory.read m)

/-- `pixel(x, y)` of R51 as a byte: 0x00 dark, 0x01 light. -/
def Memory.pixel (c : Cfg) (m : Memory) (x y : Int) : Byte :=
  (Memory.read m (byteIndex c x y) >>> (7 - bitOffset x)) &&& 1#8

/-- `Plot(x, y, k)` (R104). -/
def Memory.plot (c : Cfg) (k : Colour) (m : Memory) (p : Point) : Memory :=
  if inRange c p.1 p.2 then
    Memory.write m (byteIndex c p.1 p.2) (paintBits k (pixelMask p.1) (Memory.read m (byteIndex c p.1 p.2)))
  else m

/-- `Plot` at each point of a list, in order. -/
def Memory.plotAll (c : Cfg) (k : Colour) (ps : List Point) (m : Memory) : Memory :=
  ps.foldl (Memory.plot c k) m

/-! Plain updates of one register each. -/

/-- Writes `FB`. -/
def State.setFb (m : Memory) (s : State) : State := { s with fb := m }

/-- Writes `DRV_STATE`. -/
def State.setDrv (d : DrvState) (s : State) : State := { s with drv := d }

/-- Writes `REFRESH_COUNTER`. -/
def State.setCounter (n : Nat) (s : State) : State := { s with refreshCounter := n }

/-- Writes `STATUS`. -/
def State.setStatus (st : Status) (s : State) : State := { s with status := st }

/-- Writes `RESULT`. -/
def State.setResult (b : Byte) (s : State) : State := { s with result := b }

/-- Writes `FLAGS`. -/
def State.setFlags (f : Flags) (s : State) : State := { s with flags := f }

/-- Drives `RST_N`. -/
def State.setRstN (l : Level) (s : State) : State := { s with rstN := .driven l }

/-- Drives `DC`. -/
def State.setDc (l : Level) (s : State) : State := { s with dc := .driven l }

/-- `Emit` for each event of a list, in order (R32). -/
def State.emit (es : List Event) (s : State) : State := { s with out := s.out ++ es }

/-- One sample of BUSY consumed. -/
def State.advanceBusy (s : State) : State := { s with busyIn := s.busyIn.tail, pollCount := s.pollCount + 1 }

/-- What is left on the command port. -/
def State.setPort (bytes : List Byte) (s : State) : State := { s with port := bytes }

/-- What is handed to the bus-framing unit. -/
def State.setBusRequest (bytes : List Byte) (s : State) : State := { s with busRequest := bytes }

/-! Ending an operation. -/

/-- TAKING AN EXCEPTION, `raise S` (R226): `STATUS` gets the code, and the operation is over. Nothing is saved, no mode is
switched, control goes nowhere. -/
def raise (st : Status) (s : State) : Result := .next (s.setStatus st)

/-- The normal end of an operation, and the whole of what a return is on this block (R227): `STATUS` is `Ok`, and the
block is ready for the next command word. -/
def complete (s : State) : Result := .next (s.setStatus .ok)

/-- The gate of the framebuffer and rasterizer operations (R100): `NotInitialized` in `Uninitialized`, else `k`. -/
def gateFramebuffer (s : State) (k : State → Result) : Result :=
  if s.drv = .uninitialized then raise .notInitialized s else k s

/-! The panel bus and pins. -/

/-- `SendCmd(c)` (R150). -/
def sendCmd (code : Byte) (s : State) : State := (s.setDc .low).emit [.byte .low code]

/-- `SendData(bs)` (R151): each byte with `DC` high; nothing at all when there is none. -/
def sendData (bytes : List Byte) (s : State) : State :=
  match bytes with
  | [] => s
  | b :: bs => (s.setDc .high).emit ((b :: bs).map (.byte .high))

/-- One bus transfer: a command byte, then its data bytes (R83). -/
def sendTransfer (code : Byte) (data : List Byte) (s : State) : State := sendData data (sendCmd code s)

/-- One stage of the reset pulse: drive the level, then hold. -/
def resetStage (l : Level) (s : State) : State := (s.setRstN l).emit [.rst l, .delay s.cfg.tResetMs]

/-- `ResetPulse()`: high, low, high (R152). -/
def resetPulse (s : State) : State := resetStage .high (resetStage .low (resetStage .high s))

/-- The level BUSY shows at the `n`th sample from now (R153, U8): the environment's, or a free value. -/
def State.busyAt (s : State) (n : Nat) : Level :=
  match s.busyIn[n]? with
  | some v => v
  | none => Config.busySample (s.pollCount + n)

/-- The state after `Poll()` (R153); the value it returns is `s.busyAt 0`. -/
def poll (s : State) : State := s.advanceBusy.emit [.poll (s.busyAt 0)]

/-- The loop of `WaitBusy` with `n` samples left (R154). -/
def waitLoop : Nat → State → State
  | 0, s => (s.emit [.logTimeout]).setFlags s.flags.waitTimedOut
  | n + 1, s =>
    match s.busyAt 0 with
    | .low => (poll s).setFlags s.flags.waitEnded
    | .high => waitLoop n ((poll s).emit [.delay s.cfg.tPollMs])

/-- `WaitBusy()` (R154). -/
def waitBusy (s : State) : State := waitLoop s.cfg.pollMax s

/-- `LoadLUT(t)` (R155). -/
def loadLut (t : Waveform) (s : State) : State :=
  (sendTransfer s.cfg.cmd.writeLut (s.cfg.lut t) s).setFlags (s.flags.lutSent t)

end Sys2Proof.Machine
end

