-- ==== Sys2Proof/Machine/Bus.lean ====
section
/-! DEFINITION. The panel bus commands (`43_panel_bus_commands.md` R190 to R208). `send<Name>` is the transfer as the
protocol operations emit it; `exec<Name>` is the transfer alone, as the meaning of its row of the opcode table. A transfer
writes `DC` and `OUT` only, `WRITE_LUT` also `FLAGS.LUT_LAST` (R155): it is no operation of the block, so it tests no
driver state and leaves `STATUS` (R24: an operation writes it). -/

namespace Sys2Proof.Machine

/-- `SW_RESET`: the command byte, no data (R192). -/
def sendSwReset (s : State) : State := sendTransfer s.cfg.cmd.swReset [] s

/-- The bus command `SW_RESET` (R192). -/
def execSwReset (s : State) : Result := .next (sendSwReset s)

/-- `DRIVER_OUTPUT_CONTROL`: the command byte, then its payload (R193). -/
def sendDriverOutputControl (s : State) : State :=
  sendTransfer s.cfg.cmd.driverOutputControl s.cfg.pay.driverOutputControl s

/-- The bus command `DRIVER_OUTPUT_CONTROL` (R193). -/
def execDriverOutputControl (s : State) : Result := .next (sendDriverOutputControl s)

/-- `BOOSTER_SOFT_START`: the command byte, then its payload (R194). -/
def sendBoosterSoftStart (s : State) : State := sendTransfer s.cfg.cmd.boosterSoftStart s.cfg.pay.boosterSoftStart s

/-- The bus command `BOOSTER_SOFT_START` (R194). -/
def execBoosterSoftStart (s : State) : Result := .next (sendBoosterSoftStart s)

/-- `WRITE_VCOM`: the command byte, then its payload (R195). -/
def sendWriteVcom (s : State) : State := sendTransfer s.cfg.cmd.writeVcom s.cfg.pay.writeVcom s

/-- The bus command `WRITE_VCOM` (R195). -/
def execWriteVcom (s : State) : Result := .next (sendWriteVcom s)

/-- `DUMMY_LINE_PERIOD`: the command byte, then its payload (R196). -/
def sendDummyLinePeriod (s : State) : State := sendTransfer s.cfg.cmd.dummyLinePeriod s.cfg.pay.dummyLinePeriod s

/-- The bus command `DUMMY_LINE_PERIOD` (R196). -/
def execDummyLinePeriod (s : State) : Result := .next (sendDummyLinePeriod s)

/-- `GATE_TIME`: the command byte, then its payload (R197). -/
def sendGateTime (s : State) : State := sendTransfer s.cfg.cmd.gateTime s.cfg.pay.gateTime s

/-- The bus command `GATE_TIME` (R197). -/
def execGateTime (s : State) : Result := .next (sendGateTime s)

/-- `DATA_ENTRY_MODE`: the command byte, then its payload (R198). -/
def sendDataEntryMode (s : State) : State := sendTransfer s.cfg.cmd.dataEntryMode s.cfg.pay.dataEntryMode s

/-- The bus command `DATA_ENTRY_MODE` (R198). -/
def execDataEntryMode (s : State) : Result := .next (sendDataEntryMode s)

/-- `WRITE_LUT`: the command byte, then the 30 bytes of the table (R199), recorded in `LUT_LAST` (R155). -/
def sendWriteLut (t : Waveform) (s : State) : State := loadLut t s

/-- The bus command `WRITE_LUT` (R199). -/
def execWriteLut (t : Waveform) (s : State) : Result := .next (sendWriteLut t s)

/-- `SET_RAM_X_RANGE`: the command byte, then its payload (R200). -/
def sendSetRamXRange (s : State) : State := sendTransfer s.cfg.cmd.setRamXRange s.cfg.pay.ramXRange s

/-- The bus command `SET_RAM_X_RANGE` (R200). -/
def execSetRamXRange (s : State) : Result := .next (sendSetRamXRange s)

/-- `SET_RAM_Y_RANGE`: the command byte, then its payload (R201). -/
def sendSetRamYRange (s : State) : State := sendTransfer s.cfg.cmd.setRamYRange s.cfg.pay.ramYRange s

/-- The bus command `SET_RAM_Y_RANGE` (R201). -/
def execSetRamYRange (s : State) : Result := .next (sendSetRamYRange s)

/-- `SET_RAM_X_COUNTER`: the command byte, then its payload (R202). -/
def sendSetRamXCounter (s : State) : State := sendTransfer s.cfg.cmd.setRamXCounter s.cfg.pay.ramXCounter s

/-- The bus command `SET_RAM_X_COUNTER` (R202). -/
def execSetRamXCounter (s : State) : Result := .next (sendSetRamXCounter s)

/-- `SET_RAM_Y_COUNTER`: the command byte, then its payload (R203). -/
def sendSetRamYCounter (s : State) : State := sendTransfer s.cfg.cmd.setRamYCounter s.cfg.pay.ramYCounter s

/-- The bus command `SET_RAM_Y_COUNTER` (R203). -/
def execSetRamYCounter (s : State) : Result := .next (sendSetRamYCounter s)

/-- `WRITE_RAM`: the command byte, then `FB` in increasing byte index (R204). -/
def sendWriteRam (s : State) : State := sendTransfer s.cfg.cmd.writeRam (Memory.bytes s.cfg.fbBytes s.fb) s

/-- The bus command `WRITE_RAM` (R204). -/
def execWriteRam (s : State) : Result := .next (sendWriteRam s)

/-- `DISPLAY_UPDATE_CONTROL_2`: the command byte, then its payload (R205). -/
def sendDisplayUpdateControl2 (s : State) : State :=
  sendTransfer s.cfg.cmd.displayUpdateControl2 s.cfg.pay.displayUpdateControl2 s

/-- The bus command `DISPLAY_UPDATE_CONTROL_2` (R205). -/
def execDisplayUpdateControl2 (s : State) : Result := .next (sendDisplayUpdateControl2 s)

/-- `MASTER_ACTIVATION`: the command byte, no data (R206). -/
def sendMasterActivation (s : State) : State := sendTransfer s.cfg.cmd.masterActivation [] s

/-- The bus command `MASTER_ACTIVATION` (R206). -/
def execMasterActivation (s : State) : Result := .next (sendMasterActivation s)

/-- `TERMINATE_FRAME`: the command byte, no data (R207). -/
def sendTerminateFrame (s : State) : State := sendTransfer s.cfg.cmd.terminateFrame [] s

/-- The bus command `TERMINATE_FRAME` (R207). -/
def execTerminateFrame (s : State) : Result := .next (sendTerminateFrame s)

/-- `DEEP_SLEEP`: the command byte, then its payload (R208). -/
def sendDeepSleep (s : State) : State := sendTransfer s.cfg.cmd.deepSleep s.cfg.pay.deepSleep s

/-- The bus command `DEEP_SLEEP` (R208). -/
def execDeepSleep (s : State) : Result := .next (sendDeepSleep s)

end Sys2Proof.Machine
end

