-- ==== Sys2Proof/Machine/Framebuffer.lean ====
section
/-! DEFINITION. The framebuffer operations `CLEAR`, `SETPX`, `GETPX` (`40_framebuffer_ops.md`). -/

namespace Sys2Proof.Machine

/-- `CLEAR` (R101): every bit to light. -/
def execClear (s : State) : Result :=
  gateFramebuffer s fun s => complete (s.setFb (Memory.fillLight s.cfg.fbBytes s.fb))

/-- `SETPX x, y, k` (R102). -/
def execSetpx (x y : Int) (k : Colour) (s : State) : Result :=
  gateFramebuffer s fun s =>
    if inRange s.cfg x y then complete (s.setFb (Memory.plot s.cfg k s.fb (x, y)))
    else raise .invalidParameter s

/-- The sentinel `INVALID` of `GETPX` (R25). -/
def invalidSentinel : Byte := 0xFF#8

/-- `GETPX x, y` (R103). -/
def execGetpx (x y : Int) (s : State) : Result :=
  gateFramebuffer s fun s =>
    if inRange s.cfg x y then complete (s.setResult (Memory.pixel s.cfg s.fb x y))
    else raise .invalidParameter (s.setResult invalidSentinel)

end Sys2Proof.Machine
end

