-- ==== Sys2Proof/Machine/Protocol.lean ====
section
/-! DEFINITION. The refresh protocol operations `INIT`, `REFRESH`, `SLEEP`, `WAKEUP` (`42_protocol_ops.md`). -/

namespace Sys2Proof.Machine

/-- The six configuration commands of `INIT`, in order (R157, R158). -/
def sendConfiguration (s : State) : State :=
  sendDataEntryMode (sendGateTime (sendDummyLinePeriod (sendWriteVcom (sendBoosterSoftStart (sendDriverOutputControl s)))))

/-- The reset pulse, the busy wait and the software reset that `INIT` and `WAKEUP` share (R157, R167). -/
def resetSequence (s : State) : State := sendSwReset (waitBusy (resetPulse s))

/-- `INIT` (R157); refused outside `Uninitialized` (R159). Bus and pin setup emit nothing (R158). -/
def execInit (s : State) : Result :=
  if s.drv = .uninitialized then
    let s1 := sendWriteLut .fullUpdate (sendConfiguration (resetSequence s))
    complete (((s1.setFb (Memory.fillLight s1.cfg.fbBytes s1.fb)).setCounter 0).setDrv .ready)
  else raise .initFailed s

/-- The window and write-pointer commands of `REFRESH`, in order (R160, R164). -/
def sendWindow (s : State) : State :=
  sendSetRamYCounter (sendSetRamXCounter (sendSetRamYRange (sendSetRamXRange s)))

/-- The activation commands of `REFRESH`, in order (R164). -/
def sendActivation (s : State) : State := sendTerminateFrame (sendMasterActivation (sendDisplayUpdateControl2 s))

/-- The waveform decision, on the incremented counter (R163). -/
def chooseWaveform (mode : RefreshMode) (counter N : Nat) : Waveform :=
  if mode = .fullRefresh ∨ counter % N = 0 then .fullUpdate else .partialUpdate

/-- `REFRESH mode` (R160); refused outside `Ready` (R161). -/
def execRefresh (mode : RefreshMode) (s : State) : Result :=
  if s.drv = .ready then
    let s1 := s.setCounter (s.refreshCounter + 1)
    let s2 := sendWriteRam (sendWindow s1)
    let s3 := sendWriteLut (chooseWaveform mode s1.refreshCounter s1.cfg.N) s2
    complete (waitBusy (sendActivation s3))
  else raise .notInitialized s

/-- `SLEEP` (R166). -/
def execSleep (s : State) : Result :=
  if s.drv = .ready then complete ((sendDeepSleep s).setDrv .sleeping) else raise .notInitialized s

/-- `WAKEUP` (R167). -/
def execWakeup (s : State) : Result :=
  if s.drv = .sleeping then complete ((resetSequence s).setDrv .ready) else raise .notInitialized s

end Sys2Proof.Machine
end

