-- ==== Sys2Proof/Machine/Rasterizer.lean ====
section
/-! DEFINITION. The rasterizer operations `LINE`, `RECT`, `TEXT` (`41_rasterizer_ops.md`). All arithmetic is exact (R121);
every pixel goes through `Plot` (R120). -/

namespace Sys2Proof.Machine

/-- The loop of `Bres` (R124) as the list of points it passes to `Plot`, with `n` rounds at most; `bresPoints` gives more
rounds than the loop can take. -/
def bresLoop (dx dy sy xb yb : Int) : Nat → Int → Int → Int → List Point
  | 0, _, _, _ => []
  | n + 1, x, y, err =>
    (x, y) ::
      (if x = xb ∧ y = yb then []
      else
        let e2 := 2 * err
        let err' := if -dy < e2 then err - dy else err
        let x' := if -dy < e2 then x + 1 else x
        let err'' := if e2 < dx then err' + dx else err'
        let y' := if e2 < dx then y + sy else y
        bresLoop dx dy sy xb yb n x' y' err'')

/-- The points of `Bres(xa, ya, xb, yb, k)` in order (R124). -/
def bresPoints (xa ya xb yb : Int) : List Point :=
  let dx := xb - xa
  let dy : Int := (yb - ya).natAbs
  let sy := if ya ≤ yb then 1 else -1
  bresLoop dx dy sy xb yb ((dx + dy).toNat + 1) xa ya (dx - dy)

/-- The points of `DrawLine(xa, ya, xb, yb, k)`: the endpoints in canonical order, then `Bres` (R123). -/
def linePoints (xa ya xb yb : Int) : List Point :=
  if xb < xa ∨ (xa = xb ∧ yb < ya) then bresPoints xb yb xa ya else bresPoints xa ya xb yb

/-- `DrawLine` on the framebuffer (R123). -/
def drawLine (c : Cfg) (xa ya xb yb : Int) (k : Colour) (m : Memory) : Memory :=
  Memory.plotAll c k (linePoints xa ya xb yb) m

/-- `DrawRect` filled, as the intersection of the rectangle with the panel, row by row (R127). -/
def fillRect (c : Cfg) (x y : Int) (w h : Nat) (k : Colour) (m : Memory) : Memory :=
  (clippedRange y h c.H).foldl
    (fun m row => Memory.plotAll c k ((clippedRange x w c.W).map fun col => (col, row)) m) m

/-- `DrawRect` in outline: top, bottom, left, right (R128); nothing when a side is 0 (R129). -/
def outlineRect (c : Cfg) (x y : Int) (w h : Nat) (k : Colour) (m : Memory) : Memory :=
  if w = 0 ∨ h = 0 then m
  else
    let xr := x + w - 1
    let yb := y + h - 1
    drawLine c xr y xr yb k (drawLine c x y x yb k (drawLine c x yb xr yb k (drawLine c x y xr y k m)))

/-- `DrawRect(x, y, w, h, k, filled)` (R127, R128, R129). -/
def drawRect (c : Cfg) (x y : Int) (w h : Nat) (k : Colour) (mode : FillMode) (m : Memory) : Memory :=
  match mode with
  | .filled => fillRect c x y w h k m
  | .outline => outlineRect c x y w h k m

/-- The newline character (R79). -/
def newline : Byte := 0x0A#8

/-- The cursor of `DrawText` (R134): the top-left corners of the glyphs drawn for the remaining bytes, in order, with the
cursor at `(cx, cy)` and the origin column `x`. -/
def glyphOrigins (c : Cfg) (x : Int) (gs : Nat) : List Byte → Int → Int → List Point
  | [], _, _ => []
  | ch :: rest, cx, cy =>
    if (c.H : Int) < cy then []
    else if ch = newline then glyphOrigins c x gs rest x (cy + gs + 2)
    else if (c.W : Int) < cx + gs then
      if (c.H : Int) < cy + gs + 2 then []
      else (x, cy + gs + 2) :: glyphOrigins c x gs rest (x + gs) (cy + gs + 2)
    else (cx, cy) :: glyphOrigins c x gs rest (cx + gs) cy

/-- The glyph of every character: an outline square of side `gs - 2` (R133). -/
def drawGlyph (c : Cfg) (gs : Nat) (k : Colour) (m : Memory) (at_ : Point) : Memory :=
  drawRect c at_.1 at_.2 (gs - 2) (gs - 2) k .outline m

/-- `DrawText` (R134). -/
def drawText (c : Cfg) (x y : Int) (gs : Nat) (k : Colour) (bytes : List Byte) (m : Memory) : Memory :=
  (glyphOrigins c x gs bytes x y).foldl (drawGlyph c gs k) m

/-- `LINE x0, y0, x1, y1, k` (R122). -/
def execLine (x0 y0 x1 y1 : Int) (k : Colour) (s : State) : Result :=
  gateFramebuffer s fun s => complete (s.setFb (drawLine s.cfg x0 y0 x1 y1 k s.fb))

/-- `RECT x, y, w, h, k, m` (R126). -/
def execRect (x y : Int) (w h : Nat) (k : Colour) (mode : FillMode) (s : State) : Result :=
  gateFramebuffer s fun s => complete (s.setFb (drawRect s.cfg x y w h k mode s.fb))

/-- `TEXT x, y, gs, k, bytes` (R131), with the operand checks of R132. -/
def execText (x y : Int) (gs : Nat) (k : Colour) (bytes : List Byte) (s : State) : Result :=
  gateFramebuffer s fun s =>
    if bytes = [] ∨ gs < 3 then raise .invalidParameter s
    else complete (s.setFb (drawText s.cfg x y gs k bytes s.fb))

end Sys2Proof.Machine
end

