-- ==== Sys2Proof/Machine/Dispatch.lean ====
section
/-! DEFINITION. One arm per instruction. -/

namespace Sys2Proof.Machine

def exec (i : Instr) (s : State) : Host.Outcome State Fault Refusal :=
  match i with
  | .clear => Sys2Proof.Machine.execClear s
  | .setpx x y k => Sys2Proof.Machine.execSetpx x y k s
  | .getpx x y => Sys2Proof.Machine.execGetpx x y s
  | .line x0 y0 x1 y1 k => Sys2Proof.Machine.execLine x0 y0 x1 y1 k s
  | .rect x y w h k m => Sys2Proof.Machine.execRect x y w h k m s
  | .text x y gs k bytes => Sys2Proof.Machine.execText x y gs k bytes s
  | .init => Sys2Proof.Machine.execInit s
  | .refresh mode => Sys2Proof.Machine.execRefresh mode s
  | .sleep => Sys2Proof.Machine.execSleep s
  | .wakeup => Sys2Proof.Machine.execWakeup s
  | .swReset => Sys2Proof.Machine.execSwReset s
  | .driverOutputControl => Sys2Proof.Machine.execDriverOutputControl s
  | .boosterSoftStart => Sys2Proof.Machine.execBoosterSoftStart s
  | .writeVcom => Sys2Proof.Machine.execWriteVcom s
  | .dummyLinePeriod => Sys2Proof.Machine.execDummyLinePeriod s
  | .gateTime => Sys2Proof.Machine.execGateTime s
  | .dataEntryMode => Sys2Proof.Machine.execDataEntryMode s
  | .writeLut t => Sys2Proof.Machine.execWriteLut t s
  | .setRamXRange => Sys2Proof.Machine.execSetRamXRange s
  | .setRamYRange => Sys2Proof.Machine.execSetRamYRange s
  | .setRamXCounter => Sys2Proof.Machine.execSetRamXCounter s
  | .setRamYCounter => Sys2Proof.Machine.execSetRamYCounter s
  | .writeRam => Sys2Proof.Machine.execWriteRam s
  | .displayUpdateControl2 => Sys2Proof.Machine.execDisplayUpdateControl2 s
  | .masterActivation => Sys2Proof.Machine.execMasterActivation s
  | .terminateFrame => Sys2Proof.Machine.execTerminateFrame s
  | .deepSleep => Sys2Proof.Machine.execDeepSleep s

end Sys2Proof.Machine
end

