-- ==== Sys2Proof/WellFormed.lean ====
section
/-! DEFINITION. Which terms of `Instr` an encoding can spell: the field ranges of `30_encoding.md` rules R76 to R79. -/

namespace Sys2Proof

/-- A coordinate is a signed 16-bit integer (R76). -/
def coordOk (x : Int) : Bool := decide (-32768 ≤ x) && decide (x ≤ 32767)

/-- A size or count is an unsigned 16-bit integer (R77). -/
def sizeOk (n : Nat) : Bool := decide (n ≤ 65535)

/-- A glyph size is an unsigned 8-bit integer (R77). -/
def glyphSizeOk (n : Nat) : Bool := decide (n ≤ 255)

/-- The field ranges of an instruction's operands. -/
def Instr.wf : Instr → Bool
  | .setpx x y _ => coordOk x && coordOk y
  | .getpx x y => coordOk x && coordOk y
  | .line x0 y0 x1 y1 _ => coordOk x0 && coordOk y0 && coordOk x1 && coordOk y1
  | .rect x y w h _ _ => coordOk x && coordOk y && sizeOk w && sizeOk h
  | .text x y gs _ bytes => coordOk x && coordOk y && glyphSizeOk gs && sizeOk bytes.length
  | .clear | .init | .refresh _ | .sleep | .wakeup => true
  | .swReset | .driverOutputControl | .boosterSoftStart | .writeVcom | .dummyLinePeriod | .gateTime => true
  | .dataEntryMode | .writeLut _ | .setRamXRange | .setRamYRange | .setRamXCounter | .setRamYCounter => true
  | .writeRam | .displayUpdateControl2 | .masterActivation | .terminateFrame | .deepSleep => true

/-- An instruction some command word (or bus transfer) spells (R75, R190). -/
abbrev Instr.WellFormed (i : Instr) : Prop := i.wf = true

end Sys2Proof
end

