-- ==== Sys2Proof/Decode.lean ====
section
/-! DEFINITION. The two encoding spaces of `30_encoding.md`: the host command word with its payload (R70 to R80), and the
bus command byte (R83, R190). The decoders are total and reject by name; the encoders stand after them. -/

namespace Sys2Proof

/-! The command word. -/

/-- The ten host operations as the opcode map names them (R73). -/
inductive HostOp where
  | clear | setpx | getpx | line | rect | text | init | refresh | sleep | wakeup
deriving DecidableEq, Repr

/-- A row of the opcode map: a word `w` spells the operation when `w & mask = match` (R73). -/
structure OpRow where
  op : HostOp
  pattern : Word80
  mask : Word80
deriving DecidableEq, Repr

/-- The opcode map (R73). -/
def opRows : List OpRow :=
  [⟨.clear,   0x01000000000000000000#80, 0xFFFFFFFFFFFFFFFFFFFF#80⟩,
   ⟨.setpx,   0x02000000000000000000#80, 0xFFFE00000000FFFFFFFF#80⟩,
   ⟨.getpx,   0x03000000000000000000#80, 0xFFFF00000000FFFFFFFF#80⟩,
   ⟨.line,    0x10000000000000000000#80, 0xFFFE0000000000000000#80⟩,
   ⟨.rect,    0x11000000000000000000#80, 0xFFFC0000000000000000#80⟩,
   ⟨.text,    0x12000000000000000000#80, 0xFFFE00000000FF000000#80⟩,
   ⟨.init,    0x20000000000000000000#80, 0xFFFFFFFFFFFFFFFFFFFF#80⟩,
   ⟨.refresh, 0x21000000000000000000#80, 0xFFFDFFFFFFFFFFFFFFFF#80⟩,
   ⟨.sleep,   0x22000000000000000000#80, 0xFFFFFFFFFFFFFFFFFFFF#80⟩,
   ⟨.wakeup,  0x23000000000000000000#80, 0xFFFFFFFFFFFFFFFFFFFF#80⟩]

/-- The operation a word spells, if any (R73, R75). -/
def opOf (w : Word80) : Option HostOp := (opRows.find? fun r => w &&& r.mask == r.pattern).map OpRow.op

/-- Field `OPC` (R71). -/
def fieldOpc (w : Word80) : Byte := w.extractLsb' 72 8

/-- Field `M` (R71). -/
def fieldM (w : Word80) : Bool := w.getLsbD 65

/-- Field `K` (R71). -/
def fieldK (w : Word80) : Bool := w.getLsbD 64

/-- Field `P0` (R71). -/
def fieldP0 (w : Word80) : Field16 := w.extractLsb' 48 16

/-- Field `P1` (R71). -/
def fieldP1 (w : Word80) : Field16 := w.extractLsb' 32 16

/-- Field `P2` (R71). -/
def fieldP2 (w : Word80) : Field16 := w.extractLsb' 16 16

/-- Field `P3` (R71). -/
def fieldP3 (w : Word80) : Field16 := w.extractLsb' 0 16

/-- `sext_16` (R76). -/
def sext16 (v : Field16) : Int := v.toInt

/-- `zext_16` (R77). -/
def zext16 (v : Field16) : Nat := v.toNat

/-- The glyph size: `zext_8` of bits [23:16] (R77). -/
def fieldGs (w : Word80) : Nat := (w.extractLsb' 16 8).toNat

/-- The colour a `K` bit names (R78). -/
def colourOf (k : Bool) : Colour := if k then .light else .dark

/-- What `M` names in `RECT` (R78). -/
def fillModeOf (m : Bool) : FillMode := if m then .filled else .outline

/-- What `M` names in `REFRESH` (R78). -/
def refreshModeOf (m : Bool) : RefreshMode := if m then .fullRefresh else .partialRefresh

/-- Why a command word is illegal (R75). -/
inductive IllegalWord where
  /-- Its `OPC` is none of the ten. -/
  | unassignedOpcode
  /-- Its `OPC` is listed, and a must-be-zero bit is set (R74). -/
  | mustBeZeroBitSet
deriving DecidableEq, Repr

/-- The name of what is wrong with a word that spells no operation (R75). -/
def illegalReason (w : Word80) : IllegalWord :=
  if opRows.any fun r => fieldOpc w == r.pattern.extractLsb' 72 8 then .mustBeZeroBitSet else .unassignedOpcode

/-- The instruction an operation's word and payload spell (R72, R76 to R79). -/
def operandsOf (op : HostOp) (w : Word80) (payload : List Byte) : Instr :=
  match op with
  | .clear => .clear
  | .setpx => .setpx (sext16 (fieldP0 w)) (sext16 (fieldP1 w)) (colourOf (fieldK w))
  | .getpx => .getpx (sext16 (fieldP0 w)) (sext16 (fieldP1 w))
  | .line =>
    .line (sext16 (fieldP0 w)) (sext16 (fieldP1 w)) (sext16 (fieldP2 w)) (sext16 (fieldP3 w)) (colourOf (fieldK w))
  | .rect =>
    .rect (sext16 (fieldP0 w)) (sext16 (fieldP1 w)) (zext16 (fieldP2 w)) (zext16 (fieldP3 w)) (colourOf (fieldK w))
      (fillModeOf (fieldM w))
  | .text => .text (sext16 (fieldP0 w)) (sext16 (fieldP1 w)) (fieldGs w) (colourOf (fieldK w)) payload
  | .init => .init
  | .refresh => .refresh (refreshModeOf (fieldM w))
  | .sleep => .sleep
  | .wakeup => .wakeup

/-- A word and its payload, decoded (R73, R75). -/
def decodeWord (w : Word80) (payload : List Byte) : Except IllegalWord Instr :=
  match opOf w with
  | some op => .ok (operandsOf op w payload)
  | none => .error (illegalReason w)

/-- How many payload bytes follow a word: `len` when byte 0 is 0x12, legal or not, else none (R79, R80). -/
def payloadLength (w : Word80) : Nat := if fieldOpc w = 0x12#8 then zext16 (fieldP3 w) else 0

/-- Ten bytes as a word, byte 0 its most significant (R70). -/
def wordOfBytes (b0 b1 b2 b3 b4 b5 b6 b7 b8 b9 : Byte) : Word80 :=
  b0 ++ b1 ++ b2 ++ b3 ++ b4 ++ b5 ++ b6 ++ b7 ++ b8 ++ b9

/-- What the bytes on the command port hold. -/
inductive Decoded where
  /-- Fewer bytes than the word and its payload need. -/
  | incomplete
  /-- An operation, and the bytes after it. -/
  | legal (i : Instr) (rest : List Byte)
  /-- An illegal word, and the bytes after it and its payload (R80). -/
  | illegal (why : IllegalWord) (rest : List Byte)
deriving DecidableEq, Repr

/-- A word whose payload, if any, is at the front of `rest` (R79, R80). -/
def decodeAfterWord (w : Word80) (rest : List Byte) : Decoded :=
  if rest.length < payloadLength w then .incomplete
  else
    match decodeWord w (rest.take (payloadLength w)) with
    | .ok i => .legal i (rest.drop (payloadLength w))
    | .error why => .illegal why (rest.drop (payloadLength w))

/-- The decoder of the command port (R70 to R80). -/
def decode : List Byte → Decoded
  | b0 :: b1 :: b2 :: b3 :: b4 :: b5 :: b6 :: b7 :: b8 :: b9 :: rest =>
    decodeAfterWord (wordOfBytes b0 b1 b2 b3 b4 b5 b6 b7 b8 b9) rest
  | _ => .incomplete

/-! The bus command byte. -/

/-- The table a `WRITE_LUT` transfer carries: the partial-update table where its data are that table's and not also the
full-update table's, else the full-update table (R199). -/
def waveformOf (c : Cfg) (data : List Byte) : Waveform :=
  if data = c.lutPartial ∧ data ≠ c.lutFull then .partialUpdate else .fullUpdate

/-- The bus command a transfer's command byte names, with the table for `WRITE_LUT`; none for a byte that is no code of
the configuration (R190, R209). -/
def decodeBus (c : Cfg) : List Byte → Option Instr
  | [] => none
  | code :: data =>
    if code = c.cmd.swReset then some .swReset
    else if code = c.cmd.driverOutputControl then some .driverOutputControl
    else if code = c.cmd.boosterSoftStart then some .boosterSoftStart
    else if code = c.cmd.writeVcom then some .writeVcom
    else if code = c.cmd.dummyLinePeriod then some .dummyLinePeriod
    else if code = c.cmd.gateTime then some .gateTime
    else if code = c.cmd.dataEntryMode then some .dataEntryMode
    else if code = c.cmd.writeLut then some (.writeLut (waveformOf c data))
    else if code = c.cmd.setRamXRange then some .setRamXRange
    else if code = c.cmd.setRamYRange then some .setRamYRange
    else if code = c.cmd.setRamXCounter then some .setRamXCounter
    else if code = c.cmd.setRamYCounter then some .setRamYCounter
    else if code = c.cmd.writeRam then some .writeRam
    else if code = c.cmd.displayUpdateControl2 then some .displayUpdateControl2
    else if code = c.cmd.masterActivation then some .masterActivation
    else if code = c.cmd.terminateFrame then some .terminateFrame
    else if code = c.cmd.deepSleep then some .deepSleep
    else none

/-! The encoders. -/

/-- A word from its fields (R71): `OPC`, `RSV` zero, `M`, `K`, `P0` to `P3`. -/
def packWord (opc : Byte) (m k : Bool) (p0 p1 p2 p3 : Field16) : Word80 :=
  opc ++ (0#6) ++ BitVec.ofBool m ++ BitVec.ofBool k ++ p0 ++ p1 ++ p2 ++ p3

/-- A word's ten bytes, most significant first (R70). -/
def bytesOfWord (w : Word80) : List Byte :=
  [w.extractLsb' 72 8, w.extractLsb' 64 8, w.extractLsb' 56 8, w.extractLsb' 48 8, w.extractLsb' 40 8,
   w.extractLsb' 32 8, w.extractLsb' 24 8, w.extractLsb' 16 8, w.extractLsb' 8 8, w.extractLsb' 0 8]

/-- A coordinate's field (R76). -/
def coordField (x : Int) : Field16 := BitVec.ofInt 16 x

/-- A size's field (R77). -/
def sizeField (n : Nat) : Field16 := BitVec.ofNat 16 n

/-- The `K` bit of a colour (R78). -/
def colourBit : Colour → Bool
  | .dark => false
  | .light => true

/-- The `M` bit of a fill mode (R78). -/
def fillBit : FillMode → Bool
  | .outline => false
  | .filled => true

/-- The `M` bit of a refresh mode (R78). -/
def refreshBit : RefreshMode → Bool
  | .partialRefresh => false
  | .fullRefresh => true

/-- The command word of a host operation (R72, R73); none for a bus command. -/
def encodeWord : Instr → Option Word80
  | .clear => some (packWord 0x01#8 false false 0 0 0 0)
  | .setpx x y k => some (packWord 0x02#8 false (colourBit k) (coordField x) (coordField y) 0 0)
  | .getpx x y => some (packWord 0x03#8 false false (coordField x) (coordField y) 0 0)
  | .line x0 y0 x1 y1 k =>
    some (packWord 0x10#8 false (colourBit k) (coordField x0) (coordField y0) (coordField x1) (coordField y1))
  | .rect x y w h k m =>
    some (packWord 0x11#8 (fillBit m) (colourBit k) (coordField x) (coordField y) (sizeField w) (sizeField h))
  | .text x y gs k bytes =>
    some (packWord 0x12#8 false (colourBit k) (coordField x) (coordField y) (sizeField gs) (sizeField bytes.length))
  | .init => some (packWord 0x20#8 false false 0 0 0 0)
  | .refresh mode => some (packWord 0x21#8 (refreshBit mode) false 0 0 0 0)
  | .sleep => some (packWord 0x22#8 false false 0 0 0 0)
  | .wakeup => some (packWord 0x23#8 false false 0 0 0 0)
  | .swReset | .driverOutputControl | .boosterSoftStart | .writeVcom | .dummyLinePeriod | .gateTime => none
  | .dataEntryMode | .writeLut _ | .setRamXRange | .setRamYRange | .setRamXCounter | .setRamYCounter => none
  | .writeRam | .displayUpdateControl2 | .masterActivation | .terminateFrame | .deepSleep => none

/-- The payload bytes after a command word (R79). -/
def payloadOf : Instr → List Byte
  | .text _ _ _ _ bytes => bytes
  | _ => []

/-- The command byte of a bus command, and for `WRITE_LUT` the table it carries (R190, R199); nothing for a host
operation. -/
def encodeBus (c : Cfg) : Instr → List Byte
  | .swReset => [c.cmd.swReset]
  | .driverOutputControl => [c.cmd.driverOutputControl]
  | .boosterSoftStart => [c.cmd.boosterSoftStart]
  | .writeVcom => [c.cmd.writeVcom]
  | .dummyLinePeriod => [c.cmd.dummyLinePeriod]
  | .gateTime => [c.cmd.gateTime]
  | .dataEntryMode => [c.cmd.dataEntryMode]
  | .writeLut t => c.cmd.writeLut :: c.lut t
  | .setRamXRange => [c.cmd.setRamXRange]
  | .setRamYRange => [c.cmd.setRamYRange]
  | .setRamXCounter => [c.cmd.setRamXCounter]
  | .setRamYCounter => [c.cmd.setRamYCounter]
  | .writeRam => [c.cmd.writeRam]
  | .displayUpdateControl2 => [c.cmd.displayUpdateControl2]
  | .masterActivation => [c.cmd.masterActivation]
  | .terminateFrame => [c.cmd.terminateFrame]
  | .deepSleep => [c.cmd.deepSleep]
  | .clear | .setpx .. | .getpx .. | .line .. | .rect .. | .text .. => []
  | .init | .refresh _ | .sleep | .wakeup => []

/-- The bytes of an instruction: a command word with its payload, or a bus transfer's own bytes. -/
def encode (c : Cfg) (i : Instr) : List Byte :=
  match encodeWord i with
  | some w => bytesOfWord w ++ payloadOf i
  | none => encodeBus c i

/-! A row of the opcode table from its bits. -/

/-- The `n` low bytes of a number, the most significant first (R70). -/
def bigEndianBytes : Nat → Nat → List Byte
  | 0, _ => []
  | n + 1, w => BitVec.ofNat 8 (w >>> (8 * n)) :: bigEndianBytes n w

/-- The bytes of a host instruction whose bits are `w`, as the command port gets them: the bits above the word, the
payload bytes of a `TEXT`, are zero. -/
def hostTableBytes (w : Nat) : List Byte :=
  bigEndianBytes 10 w ++ List.replicate (payloadLength (BitVec.ofNat 80 w)) 0#8

/-- The instruction the decoders read from an instruction of `nbits` bits `w`: a command word of 80 bits, or a bus command
byte of 8 bits under the machine's own codes. -/
def decodeTableWord (nbits w : Nat) : Option Instr :=
  if nbits = 80 then
    match decode (hostTableBytes w) with
    | .legal i _ => some i
    | _ => none
  else if nbits = 8 then decodeBus Config.machine (bigEndianBytes 1 w)
  else none

end Sys2Proof
end

