-- ==== Sys2Proof/Machine/Fetch.lean ====
section
/-! DEFINITION. How the block takes its next instruction: from the command port (`30_encoding.md` R70, R80), and, for a
bus transfer on its own, from the request to the bus-framing unit. -/

namespace Sys2Proof.Machine

/-- What a step finds to do. -/
inductive Fetched where
  /-- No whole command on the port: the block waits for the host (R36: it executes nothing until the host issues an
  operation). -/
  | idle
  /-- An instruction, and the state with its bytes consumed. -/
  | run (i : Instr) (s : State)
  /-- An illegal command word, and the state with its bytes consumed (R75, R80). -/
  | illegal (s : State)
  /-- A bus request whose command byte is no code of the configuration. -/
  | unknownBus
deriving DecidableEq, Repr

/-- The next command on the port (R70, R80). -/
def fetchCommand (s : State) : Fetched :=
  match decode s.port with
  | .incomplete => .idle
  | .legal i rest => .run i (s.setPort rest)
  | .illegal _ rest => .illegal (s.setPort rest)

/-- The pending bus transfer, when one is handed over alone. -/
def fetchBus (s : State) : Fetched :=
  match decodeBus s.cfg s.busRequest with
  | some i => .run i (s.setBusRequest [])
  | none => .unknownBus

/-- What the next step does: the pending bus transfer if there is one, else the next command on the port. -/
def fetch (s : State) : Fetched :=
  match s.busRequest with
  | [] => fetchCommand s
  | _ :: _ => fetchBus s

/-- The outcome of an illegal command word: `STATUS` gets `InvalidParameter`, nothing else changes, in every driver state
(R75, R225). -/
def illegalCommand (s : State) : Result := raise .invalidParameter s

/-- The state with an instruction of `nbits` bits `w` where `fetch` looks next: a command word at the front of the port,
or a bus command byte as the pending transfer. -/
def placeInstruction (s : State) (nbits w : Nat) : State :=
  if nbits = 8 then s.setBusRequest (bigEndianBytes 1 w)
  else (s.setPort (hostTableBytes w ++ s.port)).setBusRequest []

end Sys2Proof.Machine
end

