-- ==== Sys2Proof/Machine/Step.lean ====
section
/-! DEFINITION. One step: one operation from its first action to its last (`10_state.md` R21). -/

namespace Sys2Proof.Machine

/-- One step of the block. -/
def step (s : State) : Host.Outcome State Fault Refusal :=
  match fetch s with
  | .idle => .next s
  | .run i s' => exec i s'
  | .illegal s' => illegalCommand s'
  | .unknownBus => .fault .unknownBusCommand

/-- `s` with an instruction of `nbits` bits `w` placed where `step` fetches its next instruction. -/
def State.withFetchWord (s : State) (nbits w : Nat) : State := placeInstruction s nbits w

end Sys2Proof.Machine
end

