-- ==== Sys2Proof/Safety.lean ====
section
/-! DEFINITION. What counts as a safe run: the invariants of `10_state.md` R35 and of the rules it derives from, as
predicates on one state. -/

namespace Sys2Proof.Machine

/-- The framebuffer is in canonical form and lists no index outside `0 .. FB_BYTES - 1` (R50, R53). -/
abbrev State.FbOk (s : State) : Prop := s.fb.wf = true ∧ s.fb.within s.cfg.fbBytes = true

/-- What a run from reset keeps true of the status registers and pins. -/
structure State.RegsOk (s : State) : Prop where
  /-- R35 (b). -/
  lutLast : s.flags.lutLast = .never ↔ s.drv = .uninitialized
  /-- R35 (e). -/
  timeouts : s.flags.tmoLast = true → s.flags.tmoSticky = true
  /-- R24, R223: code 3 is never written. -/
  status : s.status ≠ .hardwareTimeout
  /-- R25: a pixel value or the sentinel. -/
  result : s.result = 0x00#8 ∨ s.result = 0x01#8 ∨ s.result = 0xFF#8
  /-- R152: the reset pulse of `INIT` ends with the line high, and only a reset pulse drives it. -/
  rstN : s.rstN = if s.drv = .uninitialized then .undriven else .driven .high
  /-- R83: `DC` is driven by bus bytes, and `INIT` sends some. -/
  dc : s.dc = .undriven ↔ s.drv = .uninitialized
  /-- R28, R36: no refresh runs before the first `INIT`. -/
  counter : s.drv = .uninitialized → s.refreshCounter = 0
  /-- R21: no transfer is held across operations. -/
  noBusRequest : s.busRequest = []

/-- The events of one bus transfer: the command byte with `DC` low, then each data byte with `DC` high (R83). -/
def transferEvents (code : Byte) (data : List Byte) : List Event := .byte .low code :: data.map (.byte .high)

/-- The level `DC` keeps after a transfer (R150, R151): that of its last byte. -/
def dcAfter (data : List Byte) : Pin := if data = [] then .driven .low else .driven .high

/-- How many `MASTER_ACTIVATION` commands a trace holds: one for each refresh that ran (R206). -/
def activations (c : Cfg) (out : List Event) : Nat :=
  out.countP fun e => decide (e = .byte .low c.cmd.masterActivation)

/-- How many samples of BUSY a trace holds (R153). -/
def polls (out : List Event) : Nat := out.countP fun e => decide (e = .poll .low ∨ e = .poll .high)

/-- The invariant of the block's state. -/
structure State.Safe (s : State) : Prop where
  fb : s.FbOk
  regs : s.RegsOk
  /-- R35 (d): `REFRESH_COUNTER` counts the refreshes that ran. -/
  refreshes : activations s.cfg s.out = s.refreshCounter

/-- Runs instructions one after another. -/
def execAll : List Instr → State → Result
  | [], s => .next s
  | i :: is, s =>
    match exec i s with
    | .next t => execAll is t
    | r => r

/-- Whether an instruction is a `REFRESH`, in either mode. -/
def isRefresh : Instr → Bool
  | .refresh _ => true
  | _ => false

/-- How many of the refreshes among `ops` run when `ops` run one after another from `s`: those issued in `Ready` (R28). -/
def refreshesRun : List Instr → State → Nat
  | [], _ => 0
  | i :: ops, s =>
    (if isRefresh i = true ∧ s.drv = .ready then 1 else 0) +
      match exec i s with
      | .next t => refreshesRun ops t
      | _ => 0

/-- The states a run from hardware reset reaches, with any configuration and any contents of `FB` at reset (R36), when
the host writes any bytes to the command port and the environment fixes any samples of BUSY between steps (R4). -/
inductive Reachable : State → Prop where
  | reset (c : Cfg) (fb : Memory) (h : fb.wf = true ∧ fb.within c.fbBytes = true) : Reachable (State.resetWith c fb)
  | host (s : State) (bytes : List Byte) (h : Reachable s) : Reachable (s.setPort (s.port ++ bytes))
  | environment (s : State) (samples : List Level) (h : Reachable s) :
      Reachable { s with busyIn := s.busyIn ++ samples }
  | step (s t : State) (h : Reachable s) (e : Machine.step s = .next t) : Reachable t

end Sys2Proof.Machine
end

