-- ==== Sys2Proof/Certificates/Slice0/Obligations.lean ====
section
/-! DEFINITION. The statements for the provers. `t = { s with … }` in a statement is the frame: every part of the state
not named is as it was. A statement about the block quantifies over every state, so over every configuration of R5, every
contents of the framebuffer, and every answer of the BUSY pin. -/

open Sys2Proof Sys2Proof.Machine

/-! Encoding. -/

/-- R71 to R79: the command word and payload of every well-formed host operation decode to it, whatever follows. -/
def Obligations.EncodedOperationsDecodeBack : Prop :=
  ∀ (c : Cfg) (i : Instr) (rest : List Byte), i.isHostOp = true → i.WellFormed →
    decode (encode c i ++ rest) = .legal i rest

/-- R75: what decodes is a well-formed host operation, and its bytes are the one spelling the encoder gives. -/
def Obligations.DecodedCommandsHaveOneSpelling : Prop :=
  ∀ (c : Cfg) (bytes rest : List Byte) (i : Instr), decode bytes = .legal i rest →
    i.isHostOp = true ∧ i.WellFormed ∧ encode c i ++ rest = bytes

/-- R72, R74: the legal words are exactly those whose reserved field is zero and whose unused fields are zero for the
format of their `OPC`. -/
def Obligations.LegalWordsAreTheFormats : Prop :=
  ∀ (w : Word80) (payload : List Byte),
    let opc := w.extractLsb' 72 8
    let rsv := w.extractLsb' 66 6
    let m := w.extractLsb' 65 1
    let k := w.extractLsb' 64 1
    let p0 := w.extractLsb' 48 16
    let p1 := w.extractLsb' 32 16
    let p2 := w.extractLsb' 16 16
    let p3 := w.extractLsb' 0 16
    (∃ i, decodeWord w payload = .ok i) ↔
      rsv = 0#6 ∧
        (((opc = 0x01#8 ∨ opc = 0x20#8 ∨ opc = 0x22#8 ∨ opc = 0x23#8) ∧
            m = 0#1 ∧ k = 0#1 ∧ p0 = 0#16 ∧ p1 = 0#16 ∧ p2 = 0#16 ∧ p3 = 0#16) ∨
          (opc = 0x21#8 ∧ k = 0#1 ∧ p0 = 0#16 ∧ p1 = 0#16 ∧ p2 = 0#16 ∧ p3 = 0#16) ∨
          (opc = 0x03#8 ∧ m = 0#1 ∧ k = 0#1 ∧ p2 = 0#16 ∧ p3 = 0#16) ∨
          (opc = 0x02#8 ∧ m = 0#1 ∧ p2 = 0#16 ∧ p3 = 0#16) ∨
          (opc = 0x10#8 ∧ m = 0#1) ∨
          opc = 0x11#8 ∨
          (opc = 0x12#8 ∧ m = 0#1 ∧ p2.extractLsb' 8 8 = 0#8))

/-- R80: byte 0 and bytes 8, 9 alone decide how much of the port a command takes, legal or not. -/
def Obligations.LengthRuleKeepsThePortInStep : Prop :=
  ∀ (b0 b1 b2 b3 b4 b5 b6 b7 b8 b9 : Byte) (rest : List Byte),
    let len := if b0 = 0x12#8 then b8.toNat * 256 + b9.toNat else 0
    (rest.length < len →
      decode (b0 :: b1 :: b2 :: b3 :: b4 :: b5 :: b6 :: b7 :: b8 :: b9 :: rest) = .incomplete) ∧
    (len ≤ rest.length →
      (∃ i, decode (b0 :: b1 :: b2 :: b3 :: b4 :: b5 :: b6 :: b7 :: b8 :: b9 :: rest) = .legal i (rest.drop len)) ∨
      (∃ e, decode (b0 :: b1 :: b2 :: b3 :: b4 :: b5 :: b6 :: b7 :: b8 :: b9 :: rest) = .illegal e (rest.drop len)))

/-- R190, R209: a command byte names a bus command exactly when it is one of the seventeen codes, and since the codes are
distinct each bus command is read back from its own bytes. The partial table is told from the full one only where the two
differ (log entry 4, the model's choice). -/
def Obligations.BusCommandsDecodeBack : Prop :=
  ∀ (c : Cfg),
    (∀ (i : Instr), i.isHostOp = false → (i = .writeLut .partialUpdate → c.lutFull ≠ c.lutPartial) →
      decodeBus c (encodeBus c i) = some i) ∧
    ∀ (code : Byte) (data : List Byte),
      ((decodeBus c (code :: data)).isSome = true ↔ code ∈ c.cmd.toList) ∧
      ∀ i, decodeBus c (code :: data) = some i → i.isHostOp = false ∧ (encodeBus c i).head? = some code

/-- Words of `30_encoding.md`'s formats, one for each host operation, decode to their operations (the words of vectors V60
to V77 of `95_test_vectors.md`). -/
def Obligations.SampleWordsDecode : Prop :=
  decode [0x01, 0, 0, 0, 0, 0, 0, 0, 0, 0] = .legal .clear [] ∧
  decode [0x02, 0x01, 0x00, 0x0F, 0x00, 0x07, 0, 0, 0, 0] = .legal (.setpx 15 7 .light) [] ∧
  decode [0x03, 0x00, 0x00, 0x10, 0x00, 0x00, 0, 0, 0, 0] = .legal (.getpx 16 0) [] ∧
  decode [0x10, 0x00, 0xFF, 0xFE, 0xFF, 0xFF, 0x00, 0x03, 0x00, 0x02] = .legal (.line (-2) (-1) 3 2 .dark) [] ∧
  decode [0x11, 0x02, 0x00, 0x02, 0x00, 0x01, 0x00, 0x05, 0x00, 0x04] = .legal (.rect 2 1 5 4 .dark .filled) [] ∧
  decode [0x12, 0x01, 0x00, 0x02, 0x00, 0x01, 0x00, 0x08, 0x00, 0x03, 0x41, 0x0A, 0x42] =
    .legal (.text 2 1 8 .light [0x41, 0x0A, 0x42]) [] ∧
  decode [0x20, 0, 0, 0, 0, 0, 0, 0, 0, 0] = .legal .init [] ∧
  decode [0x21, 0x02, 0, 0, 0, 0, 0, 0, 0, 0] = .legal (.refresh .fullRefresh) [] ∧
  decode [0x22, 0, 0, 0, 0, 0, 0, 0, 0, 0] = .legal .sleep [] ∧
  decode [0x23, 0, 0, 0, 0, 0, 0, 0, 0, 0] = .legal .wakeup [] ∧
  decode [0x22, 0x04, 0, 0, 0, 0, 0, 0, 0, 0] = .illegal .mustBeZeroBitSet [] ∧
  decode [0x00, 0, 0, 0, 0, 0, 0, 0, 0, 0] = .illegal .unassignedOpcode []

/-! One step. -/

/-- A step runs the instruction it decodes: the command at the front of the port, whose bytes it consumes, or, when one is
handed over alone, the pending bus transfer. With no whole command on the port the block waits, and a step changes nothing
(log entries 2 and 3, the model's choice). -/
def Obligations.StepRunsTheDecodedInstruction : Prop :=
  (∀ (s : State) (i : Instr) (rest : List Byte), s.busRequest = [] → decode s.port = .legal i rest →
    step s = exec i { s with port := rest }) ∧
  (∀ (s : State) (i : Instr), s.busRequest ≠ [] → decodeBus s.cfg s.busRequest = some i →
    step s = exec i { s with busRequest := [] }) ∧
  (∀ (s : State), s.busRequest = [] → decode s.port = .incomplete → step s = .next s)

/-- R75, R225: an illegal word ends with `InvalidParameter` in every driver state and changes nothing else; its bytes,
with the payload of R80, are gone from the port. -/
def Obligations.IllegalWordChangesOnlyStatus : Prop :=
  ∀ (s : State) (e : IllegalWord) (rest : List Byte), s.busRequest = [] → decode s.port = .illegal e rest →
    step s = .next { s with port := rest, status := .invalidParameter }

/-- A command word placed for the next fetch is the next instruction to run, and what was on the port stays behind it. -/
def Obligations.PlacedCommandRunsNext : Prop :=
  ∀ (s : State) (w : Nat) (i : Instr), s.busRequest = [] → decodeTableWord 80 w = some i →
    step (s.withFetchWord 80 w) = exec i s

/-- R226: no operation traps: every instruction answers a next state, in every state. -/
def Obligations.EveryInstructionCompletes : Prop :=
  ∀ (i : Instr) (s : State), ∃ t, exec i s = .next t

/-- Where a step stops (log entry 3, the model's choice): it is never refused, and it faults only on a bus request that
names none of the seventeen commands. -/
def Obligations.StepStopsOnlyOnAnUnknownBusCommand : Prop :=
  ∀ (s : State), (∀ r, step s ≠ .refused r) ∧
    (∀ f, step s = .fault f ↔
      f = .unknownBusCommand ∧ ∃ code data, s.busRequest = code :: data ∧ code ∉ s.cfg.cmd.toList)

/-! Framebuffer operations. -/

/-- R100, R221: in `Uninitialized` the six framebuffer and rasterizer operations end with `NotInitialized` and change
nothing else; in `Ready` and `Sleeping` they run. -/
def Obligations.UninitializedGate : Prop :=
  ∀ (s : State) (i : Instr),
    (i = .clear ∨ (∃ x y k, i = .setpx x y k) ∨ (∃ x y, i = .getpx x y) ∨ (∃ x0 y0 x1 y1 k, i = .line x0 y0 x1 y1 k) ∨
      (∃ x y w h k m, i = .rect x y w h k m) ∨ (∃ x y gs k bytes, i = .text x y gs k bytes)) →
    (s.drv = .uninitialized → exec i s = .next { s with status := .notInitialized }) ∧
    (s.drv ≠ .uninitialized → ∃ t, exec i s = .next t ∧ (t.status = .ok ∨ t.status = .invalidParameter))

/-- R101: `CLEAR` makes every byte light; in `Uninitialized` it ends with `NotInitialized`. -/
def Obligations.ClearMakesEveryByteLight : Prop :=
  ∀ (s : State),
    (s.drv = .uninitialized → exec .clear s = .next { s with status := .notInitialized }) ∧
    (s.drv ≠ .uninitialized → s.FbOk →
      ∃ t, exec .clear s = .next t ∧ t = { s with fb := t.fb, status := .ok } ∧
        ∀ i, t.fb.read i = if i < s.cfg.fbBytes then 0xFF#8 else s.fb.read i)

/-- R102: `SETPX` on the panel writes the pixel's bit of its byte, and no other byte; in `Uninitialized` it ends with
`NotInitialized`, and else off the panel with `InvalidParameter`. -/
def Obligations.SetpxPaintsOnePixel : Prop :=
  ∀ (s : State) (x y : Int) (k : Colour),
    let i := ((y * s.cfg.W + x) / 8).toNat
    let m := 0x80#8 >>> (x % 8).toNat
    (s.drv = .uninitialized → exec (.setpx x y k) s = .next { s with status := .notInitialized }) ∧
    (s.drv ≠ .uninitialized → ¬ (0 ≤ x ∧ x < s.cfg.W ∧ 0 ≤ y ∧ y < s.cfg.H) →
      exec (.setpx x y k) s = .next { s with status := .invalidParameter }) ∧
    (s.drv ≠ .uninitialized → s.FbOk → 0 ≤ x → x < s.cfg.W → 0 ≤ y → y < s.cfg.H →
      ∃ t, exec (.setpx x y k) s = .next t ∧ t = { s with fb := t.fb, status := .ok } ∧
        t.fb.read i = (match k with | .light => s.fb.read i ||| m | .dark => s.fb.read i &&& (0xFF#8 - m)) ∧
        ∀ j, j ≠ i → t.fb.read j = s.fb.read j)

/-- R106: off the panel `SETPX` ends with `InvalidParameter` and changes nothing else, and `GETPX` gives the sentinel 0xFF
and `InvalidParameter`. -/
def Obligations.OffPanelAccessesAreRejected : Prop :=
  ∀ (s : State) (x y : Int) (k : Colour), s.drv ≠ .uninitialized →
    ¬ (0 ≤ x ∧ x < s.cfg.W ∧ 0 ≤ y ∧ y < s.cfg.H) →
    exec (.setpx x y k) s = .next { s with status := .invalidParameter } ∧
    exec (.getpx x y) s = .next { s with result := 0xFF#8, status := .invalidParameter }

/-- R103: `GETPX` on the panel leaves the pixel's stored bit in `RESULT`, off the panel the sentinel, and changes nothing
else but `STATUS`; in `Uninitialized` it ends with `NotInitialized` and leaves `RESULT`. -/
def Obligations.GetpxReturnsTheStoredBit : Prop :=
  ∀ (s : State) (x y : Int),
    (s.drv = .uninitialized → exec (.getpx x y) s = .next { s with status := .notInitialized }) ∧
    (s.drv ≠ .uninitialized → ¬ (0 ≤ x ∧ x < s.cfg.W ∧ 0 ≤ y ∧ y < s.cfg.H) →
      exec (.getpx x y) s = .next { s with result := 0xFF#8, status := .invalidParameter }) ∧
    (s.drv ≠ .uninitialized → 0 ≤ x → x < s.cfg.W → 0 ≤ y → y < s.cfg.H →
      exec (.getpx x y) s =
        .next { s with
          result := (s.fb.read ((y * s.cfg.W + x) / 8).toNat >>> (7 - (x % 8).toNat)) &&& 1#8
          status := .ok })

/-- R105: after `SETPX` on the panel, `GETPX` there gives the colour, and `GETPX` at every other pixel gives what it gave
before. -/
def Obligations.SetThenGetReturnsTheColour : Prop :=
  ∀ (s : State) (x y : Int) (k : Colour), s.drv ≠ .uninitialized → s.FbOk → inRange s.cfg x y = true →
    ∃ t, exec (.setpx x y k) s = .next t ∧
      (∃ u, exec (.getpx x y) t = .next u ∧ u.result = (match k with | .dark => 0x00#8 | .light => 0x01#8)) ∧
      ∀ x' y', inRange s.cfg x' y' = true → (x', y') ≠ (x, y) →
        ∃ u v, exec (.getpx x' y') t = .next u ∧ exec (.getpx x' y') s = .next v ∧ u.result = v.result

/-- R51: a pixel is the bit of its byte that the formulas name, the two forms of the byte index agree, and pixels of the
panel and bits of the framebuffer correspond one to one. -/
def Obligations.PixelsAndBitsCorrespond : Prop :=
  ∀ (c : Cfg),
    (∀ (m : Memory) (x y : Int), inRange c x y = true →
      Memory.pixel c m x y = (m.read ((y * c.W + x) / 8).toNat >>> (7 - (x % 8).toNat)) &&& 1#8) ∧
    (∀ x y, inRange c x y = true →
      byteIndex c x y = ((y * c.W + x) / 8).toNat ∧ (byteIndex c x y : Int) = y * c.rowBytes + x / 8 ∧
      byteIndex c x y < c.fbBytes ∧ bitOffset x = (x % 8).toNat ∧ bitOffset x = ((y * c.W + x) % 8).toNat ∧
      pixelMask x = 0x80#8 >>> (x % 8).toNat) ∧
    (∀ x y x' y', inRange c x y = true → inRange c x' y' = true → byteIndex c x y = byteIndex c x' y' →
      bitOffset x = bitOffset x' → x = x' ∧ y = y') ∧
    (∀ i j, i < c.fbBytes → j < 8 → ∃ x y, inRange c x y = true ∧ byteIndex c x y = i ∧ bitOffset x = j)

/-- R52: byte `i` holds the eight pixels `(8 * (i mod ROW_BYTES) + j, i / ROW_BYTES)`, `j = 0` in bit 7. -/
def Obligations.AByteHoldsEightPixels : Prop :=
  ∀ (c : Cfg) (m : Memory) (i j : Nat), i < c.fbBytes → j < 8 →
    inRange c (8 * (i % c.rowBytes) + j : Nat) (i / c.rowBytes : Nat) = true ∧
    Memory.pixel c m (8 * (i % c.rowBytes) + j : Nat) (i / c.rowBytes : Nat) = (m.read i >>> (7 - j)) &&& 1#8

/-- R104: `Plot` off the panel does nothing; on the panel it colours its pixel, and every other pixel keeps its value. -/
def Obligations.PlotIsClipped : Prop :=
  ∀ (c : Cfg) (k : Colour) (m : Memory) (x y : Int), m.wf = true →
    (inRange c x y = false → Memory.plot c k m (x, y) = m) ∧
    (inRange c x y = true → ∀ x' y', inRange c x' y' = true →
      Memory.pixel c (Memory.plot c k m (x, y)) x' y' =
        if x' = x ∧ y' = y then (match k with | .dark => 0x00#8 | .light => 0x01#8) else Memory.pixel c m x' y') ∧
    (∀ i, c.fbBytes ≤ i → (Memory.plot c k m (x, y)).read i = m.read i)

/-! Rasterizer operations. -/

/-- R122, R125 (f): `LINE` colours the points of the line that lie on the panel and no other pixel, and always ends
`Ok`. -/
def Obligations.LinePaintsItsPoints : Prop :=
  ∀ (s : State) (x0 y0 x1 y1 : Int) (k : Colour), s.drv ≠ .uninitialized → s.FbOk →
    ∃ t, exec (.line x0 y0 x1 y1 k) s = .next t ∧ t = { s with fb := t.fb, status := .ok } ∧
      (∀ x y, inRange s.cfg x y = true →
        Memory.pixel s.cfg t.fb x y =
          if (x, y) ∈ linePoints x0 y0 x1 y1 then colourByte k else Memory.pixel s.cfg s.fb x y) ∧
      ∀ i, s.cfg.fbBytes ≤ i → t.fb.read i = s.fb.read i

/-- R122, R125 (e): a line and the line drawn from its other end do the same. -/
def Obligations.LineIsSymmetricInDirection : Prop :=
  ∀ (s : State) (x0 y0 x1 y1 : Int) (k : Colour), exec (.line x0 y0 x1 y1 k) s = exec (.line x1 y1 x0 y0 k) s

/-- R123, R124, R125 (a), (b), (c): the points of a line run from the canonical first endpoint to the other, are
`max(dx, dy) + 1` in number and all distinct, and each follows the last by a step of at most one in each direction, always
one along the major axis. -/
def Obligations.LinePointsAreAUnitStepWalk : Prop :=
  ∀ (x0 y0 x1 y1 : Int),
    let P := linePoints x0 y0 x1 y1
    let swapped := x1 < x0 ∨ (x0 = x1 ∧ y1 < y0)
    let xa := if swapped then x1 else x0
    let ya := if swapped then y1 else y0
    let xb := if swapped then x0 else x1
    let yb := if swapped then y0 else y1
    let sy : Int := if ya ≤ yb then 1 else -1
    let dx := (xb - xa).natAbs
    let dy := (yb - ya).natAbs
    P.head? = some (xa, ya) ∧ P.getLast? = some (xb, yb) ∧ P.length = max dx dy + 1 ∧ P.Nodup ∧
      ∀ n p q, P[n]? = some p → P[n + 1]? = some q →
        (q.1 = p.1 ∨ q.1 = p.1 + 1) ∧ (q.2 = p.2 ∨ q.2 = p.2 + sy) ∧ q ≠ p ∧
        (dy ≤ dx → q.1 = p.1 + 1) ∧ (dx ≤ dy → q.2 = p.2 + sy)

/-- R124: the points of a line in closed form. With `dy ≤ dx` the point in column `xa + k` lies `k * dy / dx` rows along,
rounded to the nearest row and a tie to the row before; with `dx ≤ dy` the same with the axes exchanged. -/
def Obligations.LinePointsRoundTheIdealLine : Prop :=
  ∀ (x0 y0 x1 y1 : Int),
    let P := linePoints x0 y0 x1 y1
    let swapped := x1 < x0 ∨ (x0 = x1 ∧ y1 < y0)
    let xa := if swapped then x1 else x0
    let ya := if swapped then y1 else y0
    let xb := if swapped then x0 else x1
    let yb := if swapped then y0 else y1
    let sy : Int := if ya ≤ yb then 1 else -1
    let dx := (xb - xa).natAbs
    let dy := (yb - ya).natAbs
    (dx = 0 → dy = 0 → P = [(xa, ya)]) ∧
    (0 < dx → dy ≤ dx →
      P = (List.range (dx + 1)).map fun k : Nat => (xa + (k : Int), ya + sy * ((2 * k * dy + dx - 1) / (2 * dx) : Nat))) ∧
    (0 < dy → dx ≤ dy →
      P = (List.range (dy + 1)).map fun k : Nat => (xa + ((2 * k * dx + dy - 1) / (2 * dy) : Nat), ya + sy * (k : Int)))

/-- R125 (d): horizontal, vertical and diagonal lines are exact. -/
def Obligations.AxisAndDiagonalLinesAreExact : Prop :=
  ∀ (x y : Int) (n : Nat),
    linePoints x y (x + n) y = (List.range (n + 1)).map (fun i : Nat => (x + (i : Int), y)) ∧
    linePoints x y x (y + n) = (List.range (n + 1)).map (fun i : Nat => (x, y + (i : Int))) ∧
    linePoints x y (x + n) (y + n) = (List.range (n + 1)).map (fun i : Nat => (x + (i : Int), y + (i : Int))) ∧
    linePoints x y (x + n) (y - n) = (List.range (n + 1)).map (fun i : Nat => (x + (i : Int), y - (i : Int)))

/-- R126, R130 (a), (c), (d): a filled `RECT` colours exactly the pixels of the panel inside it. -/
def Obligations.FilledRectPaintsItsArea : Prop :=
  ∀ (s : State) (x y : Int) (w h : Nat) (k : Colour), s.drv ≠ .uninitialized → s.FbOk →
    ∃ t, exec (.rect x y w h k .filled) s = .next t ∧ t = { s with fb := t.fb, status := .ok } ∧
      (∀ px py, inRange s.cfg px py = true →
        Memory.pixel s.cfg t.fb px py =
          if x ≤ px ∧ px < x + w ∧ y ≤ py ∧ py < y + h then colourByte k else Memory.pixel s.cfg s.fb px py) ∧
      ∀ i, s.cfg.fbBytes ≤ i → t.fb.read i = s.fb.read i

/-- R127: the clipped computation of a filled rectangle is the rule's two loops of `Plot`, on every memory. -/
def Obligations.FilledRectIsTheTwoLoops : Prop :=
  ∀ (c : Cfg) (x y : Int) (w h : Nat) (k : Colour) (m : Memory),
    fillRect c x y w h k m =
      (List.range h).foldl
        (fun m j => (List.range w).foldl (fun m i => Memory.plot c k m (x + (i : Int), y + (j : Int))) m) m

/-- R126, R128, R130 (b), (c), (d): an outline `RECT` colours exactly the pixels of the panel on its perimeter. -/
def Obligations.OutlineRectPaintsItsPerimeter : Prop :=
  ∀ (s : State) (x y : Int) (w h : Nat) (k : Colour), s.drv ≠ .uninitialized → s.FbOk →
    ∃ t, exec (.rect x y w h k .outline) s = .next t ∧ t = { s with fb := t.fb, status := .ok } ∧
      (∀ px py, inRange s.cfg px py = true →
        Memory.pixel s.cfg t.fb px py =
          if x ≤ px ∧ px < x + w ∧ y ≤ py ∧ py < y + h ∧
              (px = x ∨ px = x + w - 1 ∨ py = y ∨ py = y + h - 1) then colourByte k
          else Memory.pixel s.cfg s.fb px py) ∧
      ∀ i, s.cfg.fbBytes ≤ i → t.fb.read i = s.fb.read i

/-- R129: a rectangle with an empty side draws nothing and ends `Ok` in both modes; with a side of at most 2 the two modes
do the same. -/
def Obligations.ThinRectsNeedNoFilling : Prop :=
  ∀ (s : State) (x y : Int) (w h : Nat) (k : Colour) (m : FillMode), s.drv ≠ .uninitialized → s.FbOk →
    ((w = 0 ∨ h = 0) → exec (.rect x y w h k m) s = .next { s with status := .ok }) ∧
    ((w ≤ 2 ∨ h ≤ 2) → exec (.rect x y w h k .outline) s = exec (.rect x y w h k .filled) s)

/-- R132: after the state gate, an empty text, and a glyph size below 3, end with `InvalidParameter` before any pixel is
written. -/
def Obligations.TextChecksItsOperands : Prop :=
  ∀ (s : State) (x y : Int) (gs : Nat) (k : Colour) (bytes : List Byte), bytes.length = 0 ∨ gs < 3 →
    exec (.text x y gs k bytes) s =
      .next { s with status := if s.drv = .uninitialized then .notInitialized else .invalidParameter }

/-- R131, R133: `TEXT` draws the outline square of side `gs - 2` at each cursor position of R134 and colours no other
pixel. That the newline is 0x0A (R79) is log entry 15 (PRESUMED). -/
def Obligations.TextDrawsAnOutlinePerGlyph : Prop :=
  ∀ (s : State) (x y : Int) (gs : Nat) (k : Colour) (bytes : List Byte), s.drv ≠ .uninitialized → s.FbOk →
    bytes ≠ [] → 3 ≤ gs →
    ∃ t, exec (.text x y gs k bytes) s = .next t ∧ t = { s with fb := t.fb, status := .ok } ∧
      (∀ px py, inRange s.cfg px py = true →
        Memory.pixel s.cfg t.fb px py =
          if ∃ o ∈ glyphOrigins s.cfg x gs bytes x y,
              o.1 ≤ px ∧ px < o.1 + (gs - 2 : Nat) ∧ o.2 ≤ py ∧ py < o.2 + (gs - 2 : Nat) ∧
              (px = o.1 ∨ px = o.1 + (gs - 2 : Nat) - 1 ∨ py = o.2 ∨ py = o.2 + (gs - 2 : Nat) - 1)
          then colourByte k else Memory.pixel s.cfg s.fb px py) ∧
      ∀ i, s.cfg.fbBytes ≤ i → t.fb.read i = s.fb.read i

/-- R133: a character's code has no influence; two texts of one length with newlines in the same places do the same. That
the newline is the byte 0x0A is R79's, from general knowledge, not in the source: log entry 15 (PRESUMED). -/
def Obligations.TextIgnoresCharacterCodes : Prop :=
  ∀ (s : State) (x y : Int) (gs : Nat) (k : Colour) (as bs : List Byte), as.length = bs.length →
    (∀ n : Nat, as[n]? = some 0x0A#8 ↔ bs[n]? = some 0x0A#8) → exec (.text x y gs k as) s = exec (.text x y gs k bs) s

/-- R134: the cursor, line by line. Characters that fit stand side by side `gs` apart; a newline goes to the origin column
`gs + 2` lower; a character that does not fit does the same and is drawn there, unless that is below the panel; below the
panel nothing more is drawn. That `newline` is 0x0A (R79) is log entry 15 (PRESUMED). -/
def Obligations.TextCursorMovesLineByLine : Prop :=
  ∀ (c : Cfg) (x cx cy : Int) (gs : Nat) (line rest : List Byte) (ch : Byte),
    (newline ∉ line → cy ≤ c.H → cx + gs * line.length ≤ c.W →
      glyphOrigins c x gs (line ++ rest) cx cy =
        (List.range line.length).map (fun i : Nat => (cx + gs * (i : Int), cy)) ++
          glyphOrigins c x gs rest (cx + gs * line.length) cy) ∧
    (cy ≤ c.H → glyphOrigins c x gs (newline :: rest) cx cy = glyphOrigins c x gs rest x (cy + gs + 2)) ∧
    (ch ≠ newline → cy ≤ c.H → c.W < cx + gs →
      glyphOrigins c x gs (ch :: rest) cx cy =
        if c.H < cy + gs + 2 then []
        else (x, cy + gs + 2) :: glyphOrigins c x gs rest (x + gs) (cy + gs + 2)) ∧
    (c.H < cy → glyphOrigins c x gs rest cx cy = [])

/-- R135 (c), (h): a text whose origin leaves no room draws each character on its own line, at the origin column, as far as
the panel goes; a text that starts below the panel draws nothing and ends `Ok`. That `newline` is 0x0A (R79) is log
entry 15 (PRESUMED). -/
def Obligations.TextWithoutRoomGoesDownOneColumn : Prop :=
  (∀ (c : Cfg) (x y : Int) (gs : Nat) (bytes : List Byte), newline ∉ bytes → c.W < x + gs → y ≤ c.H →
    glyphOrigins c x gs bytes x y =
      ((List.range bytes.length).map fun i : Nat => (x, y + (gs + 2) * ((i : Int) + 1))).takeWhile
        fun p : Point => decide (p.2 ≤ (c.H : Int))) ∧
  (∀ (s : State) (x y : Int) (gs : Nat) (k : Colour) (bytes : List Byte), s.drv ≠ .uninitialized → bytes ≠ [] →
    3 ≤ gs → s.cfg.H < y → exec (.text x y gs k bytes) s = .next { s with status := .ok })

/-! Protocol operations. -/

/-- R152: the reset pulse is high, low, high, each level held for `T_RESET_MS`, and ends high. -/
def Obligations.ResetPulseIsHighLowHigh : Prop :=
  ∀ (s : State),
    resetPulse s =
      { s with
        rstN := .driven .high
        out := s.out ++ [.rst .high, .delay s.cfg.tResetMs, .rst .low, .delay s.cfg.tResetMs,
                         .rst .high, .delay s.cfg.tResetMs] }

/-- R154: the busy wait ends at the first low sample among `POLL_MAX`, with a delay after each high one; with none it logs
the timeout and sets both timeout flags. -/
def Obligations.BusyWaitEndsLowOrTimesOut : Prop :=
  ∀ (s : State),
    (∀ q, q < s.cfg.pollMax → (∀ j < q, s.busyAt j = .high) → s.busyAt q = .low →
      waitBusy s =
        { s with
          out := s.out ++ (List.replicate q [.poll .high, .delay s.cfg.tPollMs]).flatten ++ [.poll .low]
          flags := { s.flags with tmoLast := false }
          busyIn := s.busyIn.drop (q + 1)
          pollCount := s.pollCount + (q + 1) }) ∧
    ((∀ j < s.cfg.pollMax, s.busyAt j = .high) →
      waitBusy s =
        { s with
          out := s.out ++ (List.replicate s.cfg.pollMax [.poll .high, .delay s.cfg.tPollMs]).flatten ++ [.logTimeout]
          flags := { s.flags with tmoLast := true, tmoSticky := true }
          busyIn := s.busyIn.drop s.cfg.pollMax
          pollCount := s.pollCount + s.cfg.pollMax })

/-- R157, R158: `INIT` from `Uninitialized`: after the reset pulse and the busy wait (`w`), however it ended, the software
reset, the six configuration commands and the full table are sent in order, the framebuffer is all light, the counter 0,
the state `Ready`. In any other state it ends with `InitFailed`. -/
def Obligations.InitSendsItsSequence : Prop :=
  (∀ (s : State), s.drv ≠ .uninitialized → exec .init s = .next { s with status := .initFailed }) ∧
  ∀ (s : State), s.drv = .uninitialized → s.FbOk →
    let w := waitBusy (resetPulse s)
    let cmd := s.cfg.cmd
    let pay := s.cfg.pay
    (∃ m, exec .init s =
        .next { w with
          fb := m
          drv := .ready
          refreshCounter := 0
          status := .ok
          dc := .driven .high
          flags := { w.flags with lutLast := .full }
          out := w.out ++ (transferEvents cmd.swReset [] ++
            transferEvents cmd.driverOutputControl pay.driverOutputControl ++
            transferEvents cmd.boosterSoftStart pay.boosterSoftStart ++
            transferEvents cmd.writeVcom pay.writeVcom ++
            transferEvents cmd.dummyLinePeriod pay.dummyLinePeriod ++
            transferEvents cmd.gateTime pay.gateTime ++
            transferEvents cmd.dataEntryMode pay.dataEntryMode ++
            transferEvents cmd.writeLut s.cfg.lutFull) } ∧
      ∀ i, Memory.read m i = if i < s.cfg.fbBytes then 0xFF#8 else s.fb.read i) ∧
    w.result = s.result ∧ w.rstN = .driven .high ∧ w.cfg = s.cfg ∧ w.port = s.port ∧ w.busRequest = s.busRequest

/-- R156, R159, R161, R224: a protocol operation outside the driver state it starts from sends nothing and changes nothing but
`STATUS`: `INIT` ends with `InitFailed`, `REFRESH` (not counted), `SLEEP` and `WAKEUP` with `NotInitialized`. -/
def Obligations.ProtocolOperationsAreRefusedOutOfState : Prop :=
  ∀ (s : State),
    (s.drv ≠ .uninitialized → exec .init s = .next { s with status := .initFailed }) ∧
    (∀ mode, s.drv ≠ .ready → exec (.refresh mode) s = .next { s with status := .notInitialized }) ∧
    (s.drv ≠ .ready → exec .sleep s = .next { s with status := .notInitialized }) ∧
    (s.drv ≠ .sleeping → exec .wakeup s = .next { s with status := .notInitialized })

/-- R160, R162, R163, R164: `REFRESH` in `Ready` counts itself first, sends the window, the pointer, the whole framebuffer
in increasing byte index, the table the mode and the new count choose, and the activation commands (`b`), then waits; it
ends `Ok` however the wait ended. In any other state it ends with `NotInitialized`. -/
def Obligations.RefreshSendsItsSequence : Prop :=
  (∀ (s : State) (mode : RefreshMode), s.drv ≠ .ready →
    exec (.refresh mode) s = .next { s with status := .notInitialized }) ∧
  ∀ (s : State) (mode : RefreshMode), s.drv = .ready →
    let cmd := s.cfg.cmd
    let pay := s.cfg.pay
    let full := mode = .fullRefresh ∨ (s.refreshCounter + 1) % s.cfg.N = 0
    let b : State :=
      { s with
        refreshCounter := s.refreshCounter + 1
        dc := .driven .low
        flags := { s.flags with lutLast := if full then .full else .part }
        out := s.out ++ (transferEvents cmd.setRamXRange pay.ramXRange ++
          transferEvents cmd.setRamYRange pay.ramYRange ++
          transferEvents cmd.setRamXCounter pay.ramXCounter ++
          transferEvents cmd.setRamYCounter pay.ramYCounter ++
          transferEvents cmd.writeRam ((List.range s.cfg.fbBytes).map s.fb.read) ++
          transferEvents cmd.writeLut (if full then s.cfg.lutFull else s.cfg.lutPartial) ++
          transferEvents cmd.displayUpdateControl2 pay.displayUpdateControl2 ++
          transferEvents cmd.masterActivation [] ++
          transferEvents cmd.terminateFrame []) }
    exec (.refresh mode) s = .next { waitBusy b with status := .ok } ∧
      (waitBusy b).fb = s.fb ∧ (waitBusy b).drv = .ready ∧ (waitBusy b).refreshCounter = s.refreshCounter + 1 ∧
      (waitBusy b).result = s.result ∧ (waitBusy b).rstN = s.rstN ∧ (waitBusy b).dc = .driven .low ∧
      (waitBusy b).cfg = s.cfg ∧ (waitBusy b).port = s.port ∧ (waitBusy b).busRequest = s.busRequest

/-- R166: `SLEEP` in `Ready` sends the deep-sleep command and enters `Sleeping`; in any other state it ends with
`NotInitialized`. -/
def Obligations.SleepSendsDeepSleep : Prop :=
  (∀ (s : State), s.drv ≠ .ready → exec .sleep s = .next { s with status := .notInitialized }) ∧
  ∀ (s : State), s.drv = .ready →
    exec .sleep s =
      .next { s with
        dc := if s.cfg.pay.deepSleep = [] then .driven .low else .driven .high
        out := s.out ++ transferEvents s.cfg.cmd.deepSleep s.cfg.pay.deepSleep
        drv := .sleeping
        status := .ok }

/-- R167: `WAKEUP` in `Sleeping` sends the reset pulse, waits, sends the software reset and enters `Ready`; the
framebuffer, the counter and `LUT_LAST` are kept. In any other state it ends with `NotInitialized`. -/
def Obligations.WakeupResetsTheController : Prop :=
  (∀ (s : State), s.drv ≠ .sleeping → exec .wakeup s = .next { s with status := .notInitialized }) ∧
  ∀ (s : State), s.drv = .sleeping →
    let w := waitBusy (resetPulse s)
    exec .wakeup s =
        .next { w with
          dc := .driven .low
          out := w.out ++ [.byte .low s.cfg.cmd.swReset]
          drv := .ready
          status := .ok } ∧
      w.fb = s.fb ∧ w.refreshCounter = s.refreshCounter ∧ w.flags.lutLast = s.flags.lutLast ∧ w.result = s.result ∧
      w.rstN = .driven .high ∧ w.cfg = s.cfg ∧ w.port = s.port ∧ w.busRequest = s.busRequest

/-- R23, R156: the driver state after each instruction: `INIT` leaves `Uninitialized`, `SLEEP` leaves `Ready`, `WAKEUP`
leaves `Sleeping`, nothing else moves. -/
def Obligations.DriverStateFollowsTheTable : Prop :=
  ∀ (i : Instr) (s t : State), exec i s = .next t →
    t.drv =
      if i = .init ∧ s.drv = .uninitialized then .ready
      else if i = .sleep ∧ s.drv = .ready then .sleeping
      else if i = .wakeup ∧ s.drv = .sleeping then .ready
      else s.drv

/-- R28: the refresh counter is 0 at reset, one more after a `REFRESH` that runs, 0 after an `INIT` that runs, and
otherwise as before. -/
def Obligations.CounterCountsRefreshes : Prop :=
  (∀ c fb, (State.resetWith c fb).refreshCounter = 0) ∧
  ∀ (i : Instr) (s t : State), exec i s = .next t →
    t.refreshCounter =
      match i with
      | .refresh _ => if s.drv = .ready then s.refreshCounter + 1 else s.refreshCounter
      | .init => if s.drv = .uninitialized then 0 else s.refreshCounter
      | _ => s.refreshCounter

/-- R168: an `INIT` that runs leaves `Ready` and the count 0; from there any instructions at all may run (`ops`: drawing,
`SLEEP` and `WAKEUP`, refreshes that run or are refused), and the count is the number of refreshes that ran. The next
refresh to run, number `j`, sends one table: the full one exactly when full is requested or `j` is a multiple of `N`. Of
refreshes issued one after another in `Ready`, all run. -/
def Obligations.EveryNthRefreshIsFull : Prop :=
  (∀ (s : State), s.drv = .uninitialized →
    ∃ t, exec .init s = .next t ∧ t.drv = .ready ∧ t.refreshCounter = 0) ∧
  (∀ (ops : List Instr) (mode : RefreshMode) (s : State), s.drv = .ready → s.refreshCounter = 0 →
    let j := refreshesRun ops s + 1
    let full := mode = .fullRefresh ∨ j % s.cfg.N = 0
    ∃ t, execAll ops s = .next t ∧ t.drv ≠ .uninitialized ∧ t.refreshCounter = refreshesRun ops s ∧
      (t.drv = .ready →
        ∃ u before after, exec (.refresh mode) t = .next u ∧ u.drv = .ready ∧ u.refreshCounter = j ∧
          (u.flags.lutLast = if full then .full else .part) ∧
          u.out = t.out ++ before ++
            transferEvents s.cfg.cmd.writeLut (if full then s.cfg.lutFull else s.cfg.lutPartial) ++ after ∧
          Event.byte .low s.cfg.cmd.writeLut ∉ before ++ after)) ∧
  (∀ (modes : List RefreshMode) (s : State), s.drv = .ready → refreshesRun (modes.map .refresh) s = modes.length)

/-- R169: how many events each protocol operation appends (`es`). With `polls es` the number of samples its busy wait took,
which is also what the model's count of samples shows, the wait appends `2 * polls es - 1` events when it ended on a low
sample (`TMO_LAST` is 0), and took all `POLL_MAX` samples and appended `2 * POLL_MAX + 1` events when it timed out. -/
def Obligations.EventCounts : Prop :=
  ∀ (s : State),
    let pay := s.cfg.pay
    let waited (t : State) (es : List Event) (fixed : Nat) : Prop :=
      t.out = s.out ++ es ∧ t.pollCount = s.pollCount + polls es ∧ 1 ≤ polls es ∧ polls es ≤ s.cfg.pollMax ∧
      (t.flags.tmoLast = false → es.length = fixed + (2 * polls es - 1)) ∧
      (t.flags.tmoLast = true → polls es = s.cfg.pollMax ∧ es.length = fixed + (2 * s.cfg.pollMax + 1))
    (resetPulse s).out.length = s.out.length + 6 ∧
    (s.drv = .uninitialized → ∃ t es, exec .init s = .next t ∧
      waited t es (6 + 1 + 6 + pay.driverOutputControl.length + pay.boosterSoftStart.length +
        pay.writeVcom.length + pay.dummyLinePeriod.length + pay.gateTime.length + pay.dataEntryMode.length + 31)) ∧
    (∀ mode, s.drv = .ready → ∃ t es, exec (.refresh mode) s = .next t ∧
      waited t es (4 + pay.ramXRange.length + pay.ramYRange.length + pay.ramXCounter.length +
        pay.ramYCounter.length + 1 + s.cfg.fbBytes + 31 + 1 + pay.displayUpdateControl2.length + 2)) ∧
    (s.drv = .ready → ∃ t es, exec .sleep s = .next t ∧ t.out = s.out ++ es ∧ t.pollCount = s.pollCount ∧
      polls es = 0 ∧ es.length = 1 + pay.deepSleep.length) ∧
    (s.drv = .sleeping → ∃ t es, exec .wakeup s = .next t ∧ waited t es (6 + 1))

/-! Panel bus commands. The events are the rules'; that a command can be run alone is the model's choice (log entry 3). -/

/-- R192, R206, R207: the three commands without data are one command byte. -/
def Obligations.BareBusCommandsSendOneByte : Prop :=
  ∀ (s : State),
    exec .swReset s =
      .next { s with dc := .driven .low, out := s.out ++ [.byte .low s.cfg.cmd.swReset] } ∧
    exec .masterActivation s =
      .next { s with dc := .driven .low, out := s.out ++ [.byte .low s.cfg.cmd.masterActivation] } ∧
    exec .terminateFrame s =
      .next { s with dc := .driven .low, out := s.out ++ [.byte .low s.cfg.cmd.terminateFrame] }

/-- R193 to R198, R200 to R203, R205, R208: the twelve commands with a payload parameter are the command byte with `DC`
low, then the payload with `DC` high, which stays low where the payload is empty. -/
def Obligations.PayloadBusCommandsSendTheirPayload : Prop :=
  ∀ (s : State) (i : Instr) (code : Byte) (data : List Byte),
    (i, code, data) ∈
      [(.driverOutputControl, s.cfg.cmd.driverOutputControl, s.cfg.pay.driverOutputControl),
       (.boosterSoftStart, s.cfg.cmd.boosterSoftStart, s.cfg.pay.boosterSoftStart),
       (.writeVcom, s.cfg.cmd.writeVcom, s.cfg.pay.writeVcom),
       (.dummyLinePeriod, s.cfg.cmd.dummyLinePeriod, s.cfg.pay.dummyLinePeriod),
       (.gateTime, s.cfg.cmd.gateTime, s.cfg.pay.gateTime),
       (.dataEntryMode, s.cfg.cmd.dataEntryMode, s.cfg.pay.dataEntryMode),
       (.setRamXRange, s.cfg.cmd.setRamXRange, s.cfg.pay.ramXRange),
       (.setRamYRange, s.cfg.cmd.setRamYRange, s.cfg.pay.ramYRange),
       (.setRamXCounter, s.cfg.cmd.setRamXCounter, s.cfg.pay.ramXCounter),
       (.setRamYCounter, s.cfg.cmd.setRamYCounter, s.cfg.pay.ramYCounter),
       (.displayUpdateControl2, s.cfg.cmd.displayUpdateControl2, s.cfg.pay.displayUpdateControl2),
       (Instr.deepSleep, s.cfg.cmd.deepSleep, s.cfg.pay.deepSleep)] →
    exec i s =
      .next { s with
        dc := if data = [] then .driven .low else .driven .high
        out := s.out ++ .byte .low code :: data.map (.byte .high) }

/-- R155, R199: `WRITE_LUT` is the command byte and exactly 30 data bytes, and `LUT_LAST` records the table. -/
def Obligations.WriteLutSendsThirtyBytes : Prop :=
  ∀ (s : State) (t : Waveform),
    (s.cfg.lut t).length = 30 ∧
    exec (.writeLut t) s =
      .next { s with
        dc := .driven .high
        flags := { s.flags with lutLast := match t with | .fullUpdate => .full | .partialUpdate => .part }
        out := s.out ++ .byte .low s.cfg.cmd.writeLut :: (s.cfg.lut t).map (.byte .high) }

/-- R58, R204: `WRITE_RAM` is the command byte and the `FB_BYTES` bytes of the framebuffer in increasing index, of which
there is at least one. -/
def Obligations.WriteRamStreamsTheFramebuffer : Prop :=
  ∀ (s : State),
    1 ≤ s.cfg.fbBytes ∧
    exec .writeRam s =
      .next { s with
        dc := .driven .high
        out := s.out ++ .byte .low s.cfg.cmd.writeRam ::
          (List.range s.cfg.fbBytes).map (fun i => .byte .high (s.fb.read i)) }

/-! The whole machine. -/

/-- R36: what hardware reset leaves, for every configuration and every contents of the framebuffer; the block does nothing
until the host issues an operation. -/
def Obligations.ResetLeavesTheLaunchState : Prop :=
  ∀ (c : Cfg) (fb : Memory),
    let s := State.resetWith c fb
    s.drv = .uninitialized ∧ s.refreshCounter = 0 ∧ s.status.code = 0#8 ∧ s.result = 0x00#8 ∧ s.flags.toByte = 0x00#8 ∧
      s.rstN = .undriven ∧ s.dc = .undriven ∧ s.out = [] ∧ s.cfg = c ∧ s.fb = fb ∧ step s = .next s

/-- The launch state has the invariant, and so has the model's reset state. -/
def Obligations.ResetIsSafe : Prop :=
  (∀ (c : Cfg) (fb : Memory), fb.wf = true ∧ fb.within c.fbBytes = true → (State.resetWith c fb).Safe) ∧
  State.reset.Safe

/-- R35: every step keeps the invariant `State.Safe`: the framebuffer's canonical form and extent, the relations of R35
among the status registers and pins, and that the counter is the number of refreshes in `OUT`. -/
def Obligations.StepKeepsSafe : Prop :=
  ∀ (s t : State), s.Safe → step s = .next t → t.Safe

/-- R35 over whole runs: every state reachable from a launch state, with the host and the environment free, has the
invariant. -/
def Obligations.ReachableStatesAreSafe : Prop :=
  ∀ (s : State), Reachable s → s.Safe

/-- R35 (f), R209: every instruction only appends to `OUT`, and every command byte it appends is one of the seventeen
codes. -/
def Obligations.OutOnlyGrowsByKnownCommands : Prop :=
  ∀ (i : Instr) (s t : State), exec i s = .next t →
    ∃ es, t.out = s.out ++ es ∧ ∀ b, Event.byte .low b ∈ es → b ∈ s.cfg.cmd.toList

/-- R31, R34, R61: no instruction changes the configuration or what is left on the command port. -/
def Obligations.InstructionsKeepTheParameters : Prop :=
  ∀ (i : Instr) (s t : State), exec i s = .next t →
    t.cfg = s.cfg ∧ t.port = s.port ∧ t.busRequest = s.busRequest

/-- R22, R25, R26, R30: only `CLEAR`, `SETPX`, `LINE`, `RECT`, `TEXT` and `INIT` write the framebuffer; only `GETPX` writes
`RESULT`; `LUT_LAST` is written only by what sends a table, the timeout flags only by what waits, `TMO_STICKY` is never
cleared; `RST_N` is driven only by what sends a reset pulse. -/
def Obligations.StateIsWrittenByItsOwners : Prop :=
  ∀ (i : Instr) (s t : State), exec i s = .next t →
    ((i = .clear ∨ (∃ x y k, i = .setpx x y k) ∨ (∃ x0 y0 x1 y1 k, i = .line x0 y0 x1 y1 k) ∨
      (∃ x y w h k m, i = .rect x y w h k m) ∨ (∃ x y gs k bytes, i = .text x y gs k bytes) ∨ i = .init) ∨
      t.fb = s.fb) ∧
    ((∃ x y, i = .getpx x y) ∨ t.result = s.result) ∧
    (i = .init ∨ (∃ mode, i = .refresh mode) ∨ (∃ w, i = .writeLut w) ∨ t.flags.lutLast = s.flags.lutLast) ∧
    (i = .init ∨ (∃ mode, i = .refresh mode) ∨ i = .wakeup ∨
      (t.flags.tmoLast = s.flags.tmoLast ∧ t.flags.tmoSticky = s.flags.tmoSticky)) ∧
    (s.flags.tmoSticky = true → t.flags.tmoSticky = true) ∧
    (i = .init ∨ i = .wakeup ∨ t.rstN = s.rstN)

/-- R60, R120, R254: the six framebuffer and rasterizer operations emit no event, sample no BUSY, and change nothing but
`FB`, `RESULT` (by `GETPX` only) and `STATUS`. -/
def Obligations.DrawingEmitsNothing : Prop :=
  ∀ (i : Instr) (s t : State), exec i s = .next t →
    (i = .clear ∨ (∃ x y k, i = .setpx x y k) ∨ (∃ x y, i = .getpx x y) ∨ (∃ x0 y0 x1 y1 k, i = .line x0 y0 x1 y1 k) ∨
      (∃ x y w h k m, i = .rect x y w h k m) ∨ (∃ x y gs k bytes, i = .text x y gs k bytes)) →
    t = { s with fb := t.fb, result := t.result, status := t.status }

/-- R24, R223: every host operation leaves a status code, and it is never `HardwareTimeout`. -/
def Obligations.HardwareTimeoutIsNeverReturned : Prop :=
  ∀ (i : Instr) (s : State), i.isHostOp = true → ∃ t, exec i s = .next t ∧ t.status ≠ .hardwareTimeout

/-- R24 to R28: the status registers as the host reads them: the codes, the places of the flags, and zero above them. -/
def Obligations.StatusRegistersReadAsLaidOut : Prop :=
  (∀ (s : State),
    readSR 0 s = some (match s.status with
      | .ok => 0 | .notInitialized => 1 | .invalidParameter => 2 | .hardwareTimeout => 3 | .initFailed => 4) ∧
    readSR 1 s = some s.result.toNat ∧ readSR 2 s = some s.flags.toByte.toNat ∧
    readSR 3 s = some (match s.drv with | .uninitialized => 0 | .ready => 1 | .sleeping => 2) ∧
    readSR 4 s = some s.refreshCounter) ∧
  (∀ (f : Flags),
    f.toByte.getLsbD 0 = f.tmoLast ∧ f.toByte.getLsbD 1 = f.tmoSticky ∧
    (f.toByte.extractLsb' 2 2).toNat = (match f.lutLast with | .never => 0 | .full => 1 | .part => 2) ∧
    f.toByte.extractLsb' 4 4 = 0#4)

/-- R100, U4: the unspecified contents of the framebuffer before the first `INIT` never matter: two runs from launch states
that differ in them alone, given the same commands and the same BUSY samples, agree in everything but the framebuffer while
`Uninitialized`, and in everything once an `INIT` has run. -/
def Obligations.ResetFramebufferIsUnobservable : Prop :=
  ∀ (c : Cfg) (m m' : Memory) (port : List Byte) (busy : List Level) (n : Nat),
    m.wf = true → m.within c.fbBytes = true → m'.wf = true → m'.within c.fbBytes = true →
    ∃ t t', core.run n { State.resetWith c m with port := port, busyIn := busy } = .next t ∧
      core.run n { State.resetWith c m' with port := port, busyIn := busy } = .next t' ∧
      (t.drv = .uninitialized → t = { t' with fb := m } ∧ t'.fb = m') ∧
      (t.drv ≠ .uninitialized → t = t')
end

