-- ==== Sys2Proof/Laws/State.lean ====
section
/-! SUPPORT. One lemma per field per plain update of the state, so that no later proof unfolds a record update. -/

namespace Sys2Proof.Machine

variable (s : State)

section
variable (m : Memory)
@[simp] theorem State.setFb_fb : (s.setFb m).fb = m := rfl
@[simp] theorem State.setFb_drv : (s.setFb m).drv = s.drv := rfl
@[simp] theorem State.setFb_refreshCounter : (s.setFb m).refreshCounter = s.refreshCounter := rfl
@[simp] theorem State.setFb_status : (s.setFb m).status = s.status := rfl
@[simp] theorem State.setFb_result : (s.setFb m).result = s.result := rfl
@[simp] theorem State.setFb_flags : (s.setFb m).flags = s.flags := rfl
@[simp] theorem State.setFb_rstN : (s.setFb m).rstN = s.rstN := rfl
@[simp] theorem State.setFb_dc : (s.setFb m).dc = s.dc := rfl
@[simp] theorem State.setFb_out : (s.setFb m).out = s.out := rfl
@[simp] theorem State.setFb_cfg : (s.setFb m).cfg = s.cfg := rfl
@[simp] theorem State.setFb_busyIn : (s.setFb m).busyIn = s.busyIn := rfl
@[simp] theorem State.setFb_pollCount : (s.setFb m).pollCount = s.pollCount := rfl
@[simp] theorem State.setFb_port : (s.setFb m).port = s.port := rfl
@[simp] theorem State.setFb_busRequest : (s.setFb m).busRequest = s.busRequest := rfl
end

section
variable (d : DrvState)
@[simp] theorem State.setDrv_fb : (s.setDrv d).fb = s.fb := rfl
@[simp] theorem State.setDrv_drv : (s.setDrv d).drv = d := rfl
@[simp] theorem State.setDrv_refreshCounter : (s.setDrv d).refreshCounter = s.refreshCounter := rfl
@[simp] theorem State.setDrv_status : (s.setDrv d).status = s.status := rfl
@[simp] theorem State.setDrv_result : (s.setDrv d).result = s.result := rfl
@[simp] theorem State.setDrv_flags : (s.setDrv d).flags = s.flags := rfl
@[simp] theorem State.setDrv_rstN : (s.setDrv d).rstN = s.rstN := rfl
@[simp] theorem State.setDrv_dc : (s.setDrv d).dc = s.dc := rfl
@[simp] theorem State.setDrv_out : (s.setDrv d).out = s.out := rfl
@[simp] theorem State.setDrv_cfg : (s.setDrv d).cfg = s.cfg := rfl
@[simp] theorem State.setDrv_busyIn : (s.setDrv d).busyIn = s.busyIn := rfl
@[simp] theorem State.setDrv_pollCount : (s.setDrv d).pollCount = s.pollCount := rfl
@[simp] theorem State.setDrv_port : (s.setDrv d).port = s.port := rfl
@[simp] theorem State.setDrv_busRequest : (s.setDrv d).busRequest = s.busRequest := rfl
end

section
variable (n : Nat)
@[simp] theorem State.setCounter_fb : (s.setCounter n).fb = s.fb := rfl
@[simp] theorem State.setCounter_drv : (s.setCounter n).drv = s.drv := rfl
@[simp] theorem State.setCounter_refreshCounter : (s.setCounter n).refreshCounter = n := rfl
@[simp] theorem State.setCounter_status : (s.setCounter n).status = s.status := rfl
@[simp] theorem State.setCounter_result : (s.setCounter n).result = s.result := rfl
@[simp] theorem State.setCounter_flags : (s.setCounter n).flags = s.flags := rfl
@[simp] theorem State.setCounter_rstN : (s.setCounter n).rstN = s.rstN := rfl
@[simp] theorem State.setCounter_dc : (s.setCounter n).dc = s.dc := rfl
@[simp] theorem State.setCounter_out : (s.setCounter n).out = s.out := rfl
@[simp] theorem State.setCounter_cfg : (s.setCounter n).cfg = s.cfg := rfl
@[simp] theorem State.setCounter_busyIn : (s.setCounter n).busyIn = s.busyIn := rfl
@[simp] theorem State.setCounter_pollCount : (s.setCounter n).pollCount = s.pollCount := rfl
@[simp] theorem State.setCounter_port : (s.setCounter n).port = s.port := rfl
@[simp] theorem State.setCounter_busRequest : (s.setCounter n).busRequest = s.busRequest := rfl
end

section
variable (st : Status)
@[simp] theorem State.setStatus_fb : (s.setStatus st).fb = s.fb := rfl
@[simp] theorem State.setStatus_drv : (s.setStatus st).drv = s.drv := rfl
@[simp] theorem State.setStatus_refreshCounter : (s.setStatus st).refreshCounter = s.refreshCounter := rfl
@[simp] theorem State.setStatus_status : (s.setStatus st).status = st := rfl
@[simp] theorem State.setStatus_result : (s.setStatus st).result = s.result := rfl
@[simp] theorem State.setStatus_flags : (s.setStatus st).flags = s.flags := rfl
@[simp] theorem State.setStatus_rstN : (s.setStatus st).rstN = s.rstN := rfl
@[simp] theorem State.setStatus_dc : (s.setStatus st).dc = s.dc := rfl
@[simp] theorem State.setStatus_out : (s.setStatus st).out = s.out := rfl
@[simp] theorem State.setStatus_cfg : (s.setStatus st).cfg = s.cfg := rfl
@[simp] theorem State.setStatus_busyIn : (s.setStatus st).busyIn = s.busyIn := rfl
@[simp] theorem State.setStatus_pollCount : (s.setStatus st).pollCount = s.pollCount := rfl
@[simp] theorem State.setStatus_port : (s.setStatus st).port = s.port := rfl
@[simp] theorem State.setStatus_busRequest : (s.setStatus st).busRequest = s.busRequest := rfl
end

section
variable (b : Byte)
@[simp] theorem State.setResult_fb : (s.setResult b).fb = s.fb := rfl
@[simp] theorem State.setResult_drv : (s.setResult b).drv = s.drv := rfl
@[simp] theorem State.setResult_refreshCounter : (s.setResult b).refreshCounter = s.refreshCounter := rfl
@[simp] theorem State.setResult_status : (s.setResult b).status = s.status := rfl
@[simp] theorem State.setResult_result : (s.setResult b).result = b := rfl
@[simp] theorem State.setResult_flags : (s.setResult b).flags = s.flags := rfl
@[simp] theorem State.setResult_rstN : (s.setResult b).rstN = s.rstN := rfl
@[simp] theorem State.setResult_dc : (s.setResult b).dc = s.dc := rfl
@[simp] theorem State.setResult_out : (s.setResult b).out = s.out := rfl
@[simp] theorem State.setResult_cfg : (s.setResult b).cfg = s.cfg := rfl
@[simp] theorem State.setResult_busyIn : (s.setResult b).busyIn = s.busyIn := rfl
@[simp] theorem State.setResult_pollCount : (s.setResult b).pollCount = s.pollCount := rfl
@[simp] theorem State.setResult_port : (s.setResult b).port = s.port := rfl
@[simp] theorem State.setResult_busRequest : (s.setResult b).busRequest = s.busRequest := rfl
end

section
variable (f : Flags)
@[simp] theorem State.setFlags_fb : (s.setFlags f).fb = s.fb := rfl
@[simp] theorem State.setFlags_drv : (s.setFlags f).drv = s.drv := rfl
@[simp] theorem State.setFlags_refreshCounter : (s.setFlags f).refreshCounter = s.refreshCounter := rfl
@[simp] theorem State.setFlags_status : (s.setFlags f).status = s.status := rfl
@[simp] theorem State.setFlags_result : (s.setFlags f).result = s.result := rfl
@[simp] theorem State.setFlags_flags : (s.setFlags f).flags = f := rfl
@[simp] theorem State.setFlags_rstN : (s.setFlags f).rstN = s.rstN := rfl
@[simp] theorem State.setFlags_dc : (s.setFlags f).dc = s.dc := rfl
@[simp] theorem State.setFlags_out : (s.setFlags f).out = s.out := rfl
@[simp] theorem State.setFlags_cfg : (s.setFlags f).cfg = s.cfg := rfl
@[simp] theorem State.setFlags_busyIn : (s.setFlags f).busyIn = s.busyIn := rfl
@[simp] theorem State.setFlags_pollCount : (s.setFlags f).pollCount = s.pollCount := rfl
@[simp] theorem State.setFlags_port : (s.setFlags f).port = s.port := rfl
@[simp] theorem State.setFlags_busRequest : (s.setFlags f).busRequest = s.busRequest := rfl
end

section
variable (l : Level)
@[simp] theorem State.setRstN_fb : (s.setRstN l).fb = s.fb := rfl
@[simp] theorem State.setRstN_drv : (s.setRstN l).drv = s.drv := rfl
@[simp] theorem State.setRstN_refreshCounter : (s.setRstN l).refreshCounter = s.refreshCounter := rfl
@[simp] theorem State.setRstN_status : (s.setRstN l).status = s.status := rfl
@[simp] theorem State.setRstN_result : (s.setRstN l).result = s.result := rfl
@[simp] theorem State.setRstN_flags : (s.setRstN l).flags = s.flags := rfl
@[simp] theorem State.setRstN_rstN : (s.setRstN l).rstN = .driven l := rfl
@[simp] theorem State.setRstN_dc : (s.setRstN l).dc = s.dc := rfl
@[simp] theorem State.setRstN_out : (s.setRstN l).out = s.out := rfl
@[simp] theorem State.setRstN_cfg : (s.setRstN l).cfg = s.cfg := rfl
@[simp] theorem State.setRstN_busyIn : (s.setRstN l).busyIn = s.busyIn := rfl
@[simp] theorem State.setRstN_pollCount : (s.setRstN l).pollCount = s.pollCount := rfl
@[simp] theorem State.setRstN_port : (s.setRstN l).port = s.port := rfl
@[simp] theorem State.setRstN_busRequest : (s.setRstN l).busRequest = s.busRequest := rfl
end

section
variable (l : Level)
@[simp] theorem State.setDc_fb : (s.setDc l).fb = s.fb := rfl
@[simp] theorem State.setDc_drv : (s.setDc l).drv = s.drv := rfl
@[simp] theorem State.setDc_refreshCounter : (s.setDc l).refreshCounter = s.refreshCounter := rfl
@[simp] theorem State.setDc_status : (s.setDc l).status = s.status := rfl
@[simp] theorem State.setDc_result : (s.setDc l).result = s.result := rfl
@[simp] theorem State.setDc_flags : (s.setDc l).flags = s.flags := rfl
@[simp] theorem State.setDc_rstN : (s.setDc l).rstN = s.rstN := rfl
@[simp] theorem State.setDc_dc : (s.setDc l).dc = .driven l := rfl
@[simp] theorem State.setDc_out : (s.setDc l).out = s.out := rfl
@[simp] theorem State.setDc_cfg : (s.setDc l).cfg = s.cfg := rfl
@[simp] theorem State.setDc_busyIn : (s.setDc l).busyIn = s.busyIn := rfl
@[simp] theorem State.setDc_pollCount : (s.setDc l).pollCount = s.pollCount := rfl
@[simp] theorem State.setDc_port : (s.setDc l).port = s.port := rfl
@[simp] theorem State.setDc_busRequest : (s.setDc l).busRequest = s.busRequest := rfl
end

section
variable (es : List Event)
@[simp] theorem State.emit_fb : (s.emit es).fb = s.fb := rfl
@[simp] theorem State.emit_drv : (s.emit es).drv = s.drv := rfl
@[simp] theorem State.emit_refreshCounter : (s.emit es).refreshCounter = s.refreshCounter := rfl
@[simp] theorem State.emit_status : (s.emit es).status = s.status := rfl
@[simp] theorem State.emit_result : (s.emit es).result = s.result := rfl
@[simp] theorem State.emit_flags : (s.emit es).flags = s.flags := rfl
@[simp] theorem State.emit_rstN : (s.emit es).rstN = s.rstN := rfl
@[simp] theorem State.emit_dc : (s.emit es).dc = s.dc := rfl
@[simp] theorem State.emit_out : (s.emit es).out = s.out ++ es := rfl
@[simp] theorem State.emit_cfg : (s.emit es).cfg = s.cfg := rfl
@[simp] theorem State.emit_busyIn : (s.emit es).busyIn = s.busyIn := rfl
@[simp] theorem State.emit_pollCount : (s.emit es).pollCount = s.pollCount := rfl
@[simp] theorem State.emit_port : (s.emit es).port = s.port := rfl
@[simp] theorem State.emit_busRequest : (s.emit es).busRequest = s.busRequest := rfl
end

section
@[simp] theorem State.advanceBusy_fb : (s.advanceBusy).fb = s.fb := rfl
@[simp] theorem State.advanceBusy_drv : (s.advanceBusy).drv = s.drv := rfl
@[simp] theorem State.advanceBusy_refreshCounter : (s.advanceBusy).refreshCounter = s.refreshCounter := rfl
@[simp] theorem State.advanceBusy_status : (s.advanceBusy).status = s.status := rfl
@[simp] theorem State.advanceBusy_result : (s.advanceBusy).result = s.result := rfl
@[simp] theorem State.advanceBusy_flags : (s.advanceBusy).flags = s.flags := rfl
@[simp] theorem State.advanceBusy_rstN : (s.advanceBusy).rstN = s.rstN := rfl
@[simp] theorem State.advanceBusy_dc : (s.advanceBusy).dc = s.dc := rfl
@[simp] theorem State.advanceBusy_out : (s.advanceBusy).out = s.out := rfl
@[simp] theorem State.advanceBusy_cfg : (s.advanceBusy).cfg = s.cfg := rfl
@[simp] theorem State.advanceBusy_busyIn : (s.advanceBusy).busyIn = s.busyIn.tail := rfl
@[simp] theorem State.advanceBusy_pollCount : (s.advanceBusy).pollCount = s.pollCount + 1 := rfl
@[simp] theorem State.advanceBusy_port : (s.advanceBusy).port = s.port := rfl
@[simp] theorem State.advanceBusy_busRequest : (s.advanceBusy).busRequest = s.busRequest := rfl
end

section
variable (bytes : List Byte)
@[simp] theorem State.setPort_fb : (s.setPort bytes).fb = s.fb := rfl
@[simp] theorem State.setPort_drv : (s.setPort bytes).drv = s.drv := rfl
@[simp] theorem State.setPort_refreshCounter : (s.setPort bytes).refreshCounter = s.refreshCounter := rfl
@[simp] theorem State.setPort_status : (s.setPort bytes).status = s.status := rfl
@[simp] theorem State.setPort_result : (s.setPort bytes).result = s.result := rfl
@[simp] theorem State.setPort_flags : (s.setPort bytes).flags = s.flags := rfl
@[simp] theorem State.setPort_rstN : (s.setPort bytes).rstN = s.rstN := rfl
@[simp] theorem State.setPort_dc : (s.setPort bytes).dc = s.dc := rfl
@[simp] theorem State.setPort_out : (s.setPort bytes).out = s.out := rfl
@[simp] theorem State.setPort_cfg : (s.setPort bytes).cfg = s.cfg := rfl
@[simp] theorem State.setPort_busyIn : (s.setPort bytes).busyIn = s.busyIn := rfl
@[simp] theorem State.setPort_pollCount : (s.setPort bytes).pollCount = s.pollCount := rfl
@[simp] theorem State.setPort_port : (s.setPort bytes).port = bytes := rfl
@[simp] theorem State.setPort_busRequest : (s.setPort bytes).busRequest = s.busRequest := rfl
end

section
variable (bytes : List Byte)
@[simp] theorem State.setBusRequest_fb : (s.setBusRequest bytes).fb = s.fb := rfl
@[simp] theorem State.setBusRequest_drv : (s.setBusRequest bytes).drv = s.drv := rfl
@[simp] theorem State.setBusRequest_refreshCounter : (s.setBusRequest bytes).refreshCounter = s.refreshCounter := rfl
@[simp] theorem State.setBusRequest_status : (s.setBusRequest bytes).status = s.status := rfl
@[simp] theorem State.setBusRequest_result : (s.setBusRequest bytes).result = s.result := rfl
@[simp] theorem State.setBusRequest_flags : (s.setBusRequest bytes).flags = s.flags := rfl
@[simp] theorem State.setBusRequest_rstN : (s.setBusRequest bytes).rstN = s.rstN := rfl
@[simp] theorem State.setBusRequest_dc : (s.setBusRequest bytes).dc = s.dc := rfl
@[simp] theorem State.setBusRequest_out : (s.setBusRequest bytes).out = s.out := rfl
@[simp] theorem State.setBusRequest_cfg : (s.setBusRequest bytes).cfg = s.cfg := rfl
@[simp] theorem State.setBusRequest_busyIn : (s.setBusRequest bytes).busyIn = s.busyIn := rfl
@[simp] theorem State.setBusRequest_pollCount : (s.setBusRequest bytes).pollCount = s.pollCount := rfl
@[simp] theorem State.setBusRequest_port : (s.setBusRequest bytes).port = s.port := rfl
@[simp] theorem State.setBusRequest_busRequest : (s.setBusRequest bytes).busRequest = bytes := rfl
end

section
variable (f : Flags) (t : Waveform)
@[simp] theorem Flags.waitEnded_tmoLast : f.waitEnded.tmoLast = false := rfl
@[simp] theorem Flags.waitEnded_tmoSticky : f.waitEnded.tmoSticky = f.tmoSticky := rfl
@[simp] theorem Flags.waitEnded_lutLast : f.waitEnded.lutLast = f.lutLast := rfl
@[simp] theorem Flags.waitTimedOut_tmoLast : f.waitTimedOut.tmoLast = true := rfl
@[simp] theorem Flags.waitTimedOut_tmoSticky : f.waitTimedOut.tmoSticky = true := rfl
@[simp] theorem Flags.waitTimedOut_lutLast : f.waitTimedOut.lutLast = f.lutLast := rfl
@[simp] theorem Flags.lutSent_tmoLast : (f.lutSent t).tmoLast = f.tmoLast := rfl
@[simp] theorem Flags.lutSent_tmoSticky : (f.lutSent t).tmoSticky = f.tmoSticky := rfl
@[simp] theorem Flags.lutSent_lutLast : (f.lutSent t).lutLast = lutLastOf t := rfl
end

end Sys2Proof.Machine
end

