-- ==== Sys2Proof/Laws/Memory.lean ====
section
/-! SUPPORT. The framebuffer as a map from indices to bytes: what each memory operation reads back as, that each keeps the
canonical form, and that canonical memories that read alike are equal. -/

namespace Sys2Proof.Machine

theorem Memory.risingFrom_mono {m : Memory} {lo lo' : Nat} (h : lo' ≤ lo) (hm : m.risingFrom lo = true) :
    m.risingFrom lo' = true := by
  cases m with
  | nil => rfl
  | cons a m =>
    obtain ⟨i, b⟩ := a
    simp only [Memory.risingFrom, Bool.and_eq_true, decide_eq_true_eq] at hm ⊢
    exact ⟨h.trans hm.1, hm.2⟩

/-- Below its first index a rising memory lists nothing. -/
theorem Memory.read_below {m : Memory} {lo i : Nat} (hm : m.risingFrom lo = true) (h : i < lo) :
    m.read i = Memory.unlisted := by
  induction m generalizing lo with
  | nil => rfl
  | cons a m ih =>
    obtain ⟨j, b⟩ := a
    simp only [Memory.risingFrom, Bool.and_eq_true, decide_eq_true_eq] at hm
    have hne : j ≠ i := by omega
    simp only [Memory.read, hne, if_false]
    exact ih hm.2 (by omega)

theorem Memory.write_rising {m : Memory} {lo i : Nat} {b : Byte} (hm : m.risingFrom lo = true) (hi : lo ≤ i) :
    (m.write i b).risingFrom lo = true := by
  induction m generalizing lo with
  | nil => simp only [Memory.write]; split <;> simp [Memory.risingFrom, hi]
  | cons a m ih =>
    obtain ⟨j, c⟩ := a
    have hm' := hm
    simp only [Memory.risingFrom, Bool.and_eq_true, decide_eq_true_eq] at hm'
    simp only [Memory.write]
    split
    · split
      · exact hm
      · simp only [Memory.risingFrom, Bool.and_eq_true, decide_eq_true_eq]
        exact ⟨hi, by omega, hm'.2⟩
    · split
      · subst i
        split
        · exact Memory.risingFrom_mono (by omega) hm'.2
        · simp only [Memory.risingFrom, Bool.and_eq_true, decide_eq_true_eq]
          exact hm'
      · simp only [Memory.risingFrom, Bool.and_eq_true, decide_eq_true_eq]
        exact ⟨hm'.1, ih hm'.2 (by omega)⟩

/-- Every cell of a memory after a write is the new one or an old one. -/
theorem Memory.mem_write {m : Memory} {i : Nat} {b : Byte} {cell : Host.Cell} (h : cell ∈ m.write i b) :
    (cell = (i, b) ∧ b ≠ Memory.unlisted) ∨ cell ∈ m := by
  induction m with
  | nil =>
    simp only [Memory.write] at h
    split at h
    · simp at h
    · exact .inl ⟨by simpa using h, ‹_›⟩
  | cons a m ih =>
    obtain ⟨j, c⟩ := a
    simp only [Memory.write] at h
    repeat' split at h
    · exact .inr h
    · rcases List.mem_cons.1 h with h | h
      · exact .inl ⟨h, ‹_›⟩
      · exact .inr h
    · exact .inr (List.mem_cons_of_mem _ h)
    · rcases List.mem_cons.1 h with h | h
      · exact .inl ⟨h, ‹_›⟩
      · exact .inr (List.mem_cons_of_mem _ h)
    · rcases List.mem_cons.1 h with h | h
      · exact .inr (h ▸ List.mem_cons_self)
      · exact (ih h).imp_right (List.mem_cons_of_mem _)

theorem Memory.wf_iff {m : Memory} :
    m.wf = true ↔ m.risingFrom 0 = true ∧ ∀ cell ∈ m, cell.2 ≠ Memory.unlisted := by
  simp [Memory.wf]

theorem Memory.within_iff {n : Nat} {m : Memory} : m.within n = true ↔ ∀ cell ∈ m, cell.1 < n := by
  simp [Memory.within]

/-- A write keeps the canonical form. -/
theorem Memory.write_wf {m : Memory} {i : Nat} {b : Byte} (hm : m.wf = true) : (m.write i b).wf = true := by
  rw [Memory.wf_iff] at hm ⊢
  refine ⟨Memory.write_rising hm.1 (Nat.zero_le _), fun cell h => ?_⟩
  rcases Memory.mem_write h with ⟨rfl, hb⟩ | h
  · exact hb
  · exact hm.2 cell h

theorem Memory.write_within {n : Nat} {m : Memory} {i : Nat} {b : Byte} (hm : m.within n = true) (hi : i < n) :
    (m.write i b).within n = true := by
  rw [Memory.within_iff] at hm ⊢
  intro cell h
  rcases Memory.mem_write h with ⟨rfl, -⟩ | h
  · exact hi
  · exact hm cell h

theorem Memory.read_write_rising {m : Memory} {lo i j : Nat} {b : Byte} (hm : m.risingFrom lo = true) :
    (m.write i b).read j = if j = i then b else m.read j := by
  induction m generalizing lo with
  | nil =>
    by_cases hb : b = Memory.unlisted
    · simp [Memory.write, Memory.read, hb]
    · simp only [Memory.write, hb, if_false, Memory.read, eq_comm]
  | cons a m ih =>
    obtain ⟨k, c⟩ := a
    simp only [Memory.risingFrom, Bool.and_eq_true, decide_eq_true_eq] at hm
    rcases Nat.lt_trichotomy i k with h | h | h
    · by_cases hb : b = Memory.unlisted
      · simp only [Memory.write, h, hb, if_true]
        split
        · subst j
          have hne : k ≠ i := by omega
          simp only [Memory.read, hne, if_false]
          exact Memory.read_below hm.2 (by omega)
        · rfl
      · simp only [Memory.write, h, hb, if_true, if_false, Memory.read]
        by_cases hj : i = j <;> simp [hj, eq_comm]
    · subst i
      by_cases hb : b = Memory.unlisted
      · simp only [Memory.write, lt_irrefl, hb, if_true, if_false, Memory.read]
        by_cases hj : j = k
        · subst j; simp [Memory.read_below hm.2 (Nat.lt_succ_self k)]
        · simp [hj, Ne.symm hj]
      · simp only [Memory.write, lt_irrefl, hb, if_true, if_false, Memory.read]
        by_cases hj : j = k
        · simp [hj]
        · simp [hj, Ne.symm hj]
    · have h1 : ¬ i < k := by omega
      have h2 : i ≠ k := by omega
      simp only [Memory.write, h1, h2, if_false, Memory.read, ih hm.2]
      by_cases hj : k = j
      · subst k; simp [Ne.symm h2]
      · simp [hj]

/-- Reading after a write: the byte written at its index, the old byte elsewhere. -/
theorem Memory.read_write {m : Memory} (hm : m.wf = true) (i j : Nat) (b : Byte) :
    (m.write i b).read j = if j = i then b else m.read j :=
  Memory.read_write_rising (Memory.wf_iff.1 hm).1

theorem Memory.read_beyond {n : Nat} {m : Memory} (hm : m.within n = true) {i : Nat} (hi : n ≤ i) :
    m.read i = Memory.unlisted := by
  induction m with
  | nil => rfl
  | cons a m ih =>
    rw [Memory.within_iff] at hm ih
    have := hm a List.mem_cons_self
    have hne : a.1 ≠ i := by omega
    simp only [Memory.read, hne, if_false]
    exact ih fun cell h => hm cell (List.mem_cons_of_mem _ h)

theorem Memory.read_head {i : Nat} {b : Byte} {m : Memory} : Memory.read ((i, b) :: m) i = b := by
  simp [Memory.read]

/-- Canonical memories that read alike are equal. -/
theorem Memory.ext_of_read {m m' : Memory} {lo : Nat} (h : m.risingFrom lo = true) (h' : m'.risingFrom lo = true)
    (hu : ∀ cell ∈ m, cell.2 ≠ Memory.unlisted) (hu' : ∀ cell ∈ m', cell.2 ≠ Memory.unlisted)
    (hr : ∀ i, m.read i = m'.read i) : m = m' := by
  induction m generalizing m' lo with
  | nil =>
    cases m' with
    | nil => rfl
    | cons a m' =>
      obtain ⟨i, b⟩ := a
      have := hr i
      rw [Memory.read_head] at this
      exact absurd this.symm (hu' _ List.mem_cons_self)
  | cons a m ih =>
    obtain ⟨i, b⟩ := a
    cases m' with
    | nil =>
      have := hr i
      rw [Memory.read_head] at this
      exact absurd this (hu _ List.mem_cons_self)
    | cons a' m' =>
      obtain ⟨i', b'⟩ := a'
      simp only [Memory.risingFrom, Bool.and_eq_true, decide_eq_true_eq] at h h'
      have hi : i = i' := by
        rcases Nat.lt_trichotomy i i' with hlt | heq | hgt
        · have := hr i
          rw [Memory.read_head] at this
          have hne : i' ≠ i := by omega
          simp only [Memory.read, hne, if_false, Memory.read_below h'.2 (show i < i' + 1 by omega)] at this
          exact absurd this (hu _ List.mem_cons_self)
        · exact heq
        · have := hr i'
          rw [Memory.read_head] at this
          have hne : i ≠ i' := by omega
          simp only [Memory.read, hne, if_false, Memory.read_below h.2 (show i' < i + 1 by omega)] at this
          exact absurd this.symm (hu' _ List.mem_cons_self)
      subst hi
      have hb : b = b' := by simpa [Memory.read_head] using hr i
      subst hb
      congr 1
      refine ih h.2 h'.2 (fun c hc => hu c (List.mem_cons_of_mem _ hc))
        (fun c hc => hu' c (List.mem_cons_of_mem _ hc)) fun j => ?_
      have := hr j
      by_cases hj : i = j
      · subst hj
        rw [Memory.read_below h.2 (Nat.lt_succ_self _), Memory.read_below h'.2 (Nat.lt_succ_self _)]
      · simpa [Memory.read, hj] using this

theorem Memory.ext_of_wf {m m' : Memory} (h : m.wf = true) (h' : m'.wf = true) (hr : ∀ i, m.read i = m'.read i) :
    m = m' :=
  Memory.ext_of_read (Memory.wf_iff.1 h).1 (Memory.wf_iff.1 h').1 (Memory.wf_iff.1 h).2 (Memory.wf_iff.1 h').2 hr

/-! `fillLight`. -/

theorem Memory.fillLight_succ (n : Nat) (m : Memory) :
    Memory.fillLight (n + 1) m = (Memory.fillLight n m).write n 0xFF#8 := by
  simp [Memory.fillLight, List.range_succ, List.foldl_append]

theorem Memory.fillLight_wf {m : Memory} (hm : m.wf = true) (n : Nat) : (Memory.fillLight n m).wf = true := by
  induction n with
  | zero => exact hm
  | succ n ih => rw [Memory.fillLight_succ]; exact Memory.write_wf ih

theorem Memory.fillLight_within {b : Nat} {m : Memory} (hm : m.within b = true) {n : Nat} (hn : n ≤ b) :
    (Memory.fillLight n m).within b = true := by
  induction n with
  | zero => exact hm
  | succ n ih => rw [Memory.fillLight_succ]; exact Memory.write_within (ih (by omega)) (by omega)

/-- After `fillLight n` the first `n` bytes are light and the others as before. -/
theorem Memory.read_fillLight {m : Memory} (hm : m.wf = true) (n i : Nat) :
    (Memory.fillLight n m).read i = if i < n then 0xFF#8 else m.read i := by
  induction n with
  | zero => simp [Memory.fillLight]
  | succ n ih =>
    rw [Memory.fillLight_succ, Memory.read_write (Memory.fillLight_wf hm n), ih]
    split_ifs <;> first | rfl | omega

/-- `fillLight` of the whole framebuffer leaves nothing listed. -/
theorem Memory.fillLight_eq_nil {n : Nat} {m : Memory} (hm : m.wf = true) (hw : m.within n = true) :
    Memory.fillLight n m = [] := by
  refine Memory.ext_of_wf (Memory.fillLight_wf hm n) rfl fun i => ?_
  rw [Memory.read_fillLight hm]
  split
  · rfl
  · exact Memory.read_beyond hw (by omega)

end Sys2Proof.Machine
end

