-- ==== Sys2Proof/Laws/Pixels.lean ====
section
/-! SUPPORT. The map from pixels to bits of the framebuffer, and what `Plot` does to pixels and to bytes. -/

namespace Sys2Proof.Machine

theorem inRange_iff {c : Cfg} {x y : Int} : inRange c x y = true ↔ 0 ≤ x ∧ x < c.W ∧ 0 ≤ y ∧ y < c.H := by
  simp [inRange, and_assoc]

/-- The width in bytes, as a number to multiply with (R5, R6). -/
theorem width_eq (c : Cfg) : c.W = 8 * c.rowBytes := by
  have := c.W_mod
  unfold Cfg.rowBytes; omega

theorem fbBytes_eq (c : Cfg) : c.fbBytes = c.H * c.rowBytes := by
  rw [Cfg.fbBytes, width_eq c, Nat.mul_assoc, Nat.mul_div_cancel_left _ (by decide : 0 < 8), Nat.mul_comm]

/-- The two forms of the byte index (R51). -/
theorem byteIndex_eq (c : Cfg) {x y : Nat} : byteIndex c x y = y * c.rowBytes + x / 8 := by
  have h : ((y : Int) * (c.W : Int) + x) / 8 = (y * c.rowBytes + x / 8 : Nat) := by
    rw [width_eq c]; push_cast
    rw [show (y : Int) * (8 * c.rowBytes) + x = x + y * c.rowBytes * 8 by ring,
      Int.add_mul_ediv_right _ _ (by decide), add_comm]
  rw [byteIndex, h, Int.toNat_natCast]

theorem bitOffset_natCast (x : Nat) : bitOffset x = x % 8 := by
  unfold bitOffset; omega

theorem bitOffset_lt (x : Int) : bitOffset x < 8 := by
  unfold bitOffset; omega

/-- Coordinates on the panel are naturals below its sides. -/
theorem exists_nat_of_inRange {c : Cfg} {x y : Int} (h : inRange c x y = true) :
    ∃ a b : Nat, x = a ∧ y = b ∧ a < c.W ∧ b < c.H := by
  rw [inRange_iff] at h
  exact ⟨x.toNat, y.toNat, by omega, by omega, by omega, by omega⟩

theorem byteIndex_lt {c : Cfg} {x y : Int} (h : inRange c x y = true) : byteIndex c x y < c.fbBytes := by
  obtain ⟨a, b, rfl, rfl, ha, hb⟩ := exists_nat_of_inRange h
  rw [byteIndex_eq, fbBytes_eq]
  have hw := width_eq c
  calc b * c.rowBytes + a / 8 < b * c.rowBytes + c.rowBytes := by omega
    _ = (b + 1) * c.rowBytes := by ring
    _ ≤ c.H * c.rowBytes := Nat.mul_le_mul_right _ hb

/-- Different pixels of the panel are different bits. -/
theorem pixel_eq_of_bit_eq {c : Cfg} {x y x' y' : Int} (h : inRange c x y = true) (h' : inRange c x' y' = true)
    (hi : byteIndex c x y = byteIndex c x' y') (hb : bitOffset x = bitOffset x') : x = x' ∧ y = y' := by
  obtain ⟨a, b, rfl, rfl, ha, -⟩ := exists_nat_of_inRange h
  obtain ⟨a', b', rfl, rfl, ha', -⟩ := exists_nat_of_inRange h'
  rw [byteIndex_eq, byteIndex_eq] at hi
  rw [bitOffset_natCast, bitOffset_natCast] at hb
  have hw := width_eq c
  have h1 : a / 8 < c.rowBytes := by omega
  have h2 : a' / 8 < c.rowBytes := by omega
  have hy : b = b' := by
    rcases Nat.lt_trichotomy b b' with hlt | heq | hgt
    · have := Nat.mul_le_mul_right c.rowBytes (show b + 1 ≤ b' from hlt)
      rw [Nat.add_mul] at this; omega
    · exact heq
    · have := Nat.mul_le_mul_right c.rowBytes (show b' + 1 ≤ b from hgt)
      rw [Nat.add_mul] at this; omega
  subst hy
  exact ⟨by omega, rfl⟩

/-! Single bits of a byte. -/

theorem shift_and_one (b : Byte) (n : Nat) : (b >>> n) &&& 1#8 = if b.getLsbD n then 1#8 else 0#8 := by
  apply BitVec.eq_of_getLsbD_eq
  intro i hi
  by_cases h : i = 0
  · subst h; by_cases hb : b.getLsbD n <;> simp [hb]
  · have h1 : (1#8).getLsbD i = false := by
      have : ∀ j : Fin 8, j.val ≠ 0 → (1#8).getLsbD j.val = false := by decide
      exact this ⟨i, hi⟩ h
    by_cases hb : b.getLsbD n <;> simp [hb, h1]

theorem pixelMask_bit {o n : Nat} (ho : o < 8) (hn : n < 8) :
    ((0x80#8 : Byte) >>> o).getLsbD (7 - n) = decide (n = o) := by
  have : ∀ a b : Fin 8, ((0x80#8 : Byte) >>> a.val).getLsbD (7 - b.val) = decide (b.val = a.val) := by decide
  exact this ⟨o, ho⟩ ⟨n, hn⟩

/-- A bit of a painted byte. -/
theorem bit_paintBits (k : Colour) (b : Byte) {o n : Nat} (ho : o < 8) (hn : n < 8) :
    (paintBits k (0x80#8 >>> o) b >>> (7 - n)) &&& 1#8 = if n = o then colourByte k else (b >>> (7 - n)) &&& 1#8 := by
  have h8 : 7 - n < 8 := by omega
  rw [shift_and_one, shift_and_one]
  cases k <;> simp only [paintBits, colourByte, BitVec.getLsbD_and, BitVec.getLsbD_or, BitVec.getLsbD_not,
    pixelMask_bit ho hn, h8, decide_true, Bool.true_and] <;> by_cases h : n = o <;> simp [h]

/-! `Plot`. -/

theorem Memory.plot_wf {c : Cfg} {k : Colour} {m : Memory} (p : Point) (hm : m.wf = true) :
    (Memory.plot c k m p).wf = true := by
  unfold Memory.plot
  split
  · exact Memory.write_wf hm
  · exact hm

theorem Memory.plot_within {c : Cfg} {k : Colour} {m : Memory} (p : Point) (hm : m.within c.fbBytes = true) :
    (Memory.plot c k m p).within c.fbBytes = true := by
  unfold Memory.plot
  split
  · exact Memory.write_within hm (byteIndex_lt ‹_›)
  · exact hm

/-- What `Plot` leaves in each byte: its own byte painted, the others as before. -/
theorem Memory.read_plot {c : Cfg} {k : Colour} {m : Memory} (hm : m.wf = true) (p : Point) (i : Nat) :
    (Memory.plot c k m p).read i =
      if inRange c p.1 p.2 = true ∧ i = byteIndex c p.1 p.2 then paintBits k (pixelMask p.1) (m.read i)
      else m.read i := by
  unfold Memory.plot
  by_cases h : inRange c p.1 p.2 = true
  · simp only [h, if_true, true_and, Memory.read_write hm]
    split
    · next hi => rw [hi]
    · rfl
  · simp [h]

/-- What `Plot` leaves in each pixel of the panel: its own at the colour, the others as before. -/
theorem Memory.pixel_plot {c : Cfg} {k : Colour} {m : Memory} (hm : m.wf = true) (p q : Point)
    (hq : inRange c q.1 q.2 = true) :
    Memory.pixel c (Memory.plot c k m p) q.1 q.2 = if q = p then colourByte k else Memory.pixel c m q.1 q.2 := by
  unfold Memory.pixel
  rw [Memory.read_plot hm]
  by_cases hp : inRange c p.1 p.2 = true
  · by_cases hi : byteIndex c q.1 q.2 = byteIndex c p.1 p.2
    · simp only [hp, hi, and_self, if_true]
      rw [pixelMask, bit_paintBits k _ (bitOffset_lt _) (bitOffset_lt _)]
      by_cases hb : bitOffset q.1 = bitOffset p.1
      · have := pixel_eq_of_bit_eq hq hp hi hb
        simp [Prod.ext_iff, this]
      · have hne : q ≠ p := fun h => hb (by rw [h])
        simp [hb, hne]
    · have hne : q ≠ p := fun h => hi (by rw [h])
      simp [hi, hne]
  · have hne : q ≠ p := fun h => hp (h ▸ hq)
    simp [hp, hne]

theorem Memory.plot_of_not_inRange {c : Cfg} {k : Colour} {m : Memory} {p : Point} (h : ¬ inRange c p.1 p.2 = true) :
    Memory.plot c k m p = m := by
  simp [Memory.plot, h]

/-! `plotAll`. -/

@[simp] theorem Memory.plotAll_nil (c : Cfg) (k : Colour) (m : Memory) : Memory.plotAll c k [] m = m := rfl

@[simp] theorem Memory.plotAll_cons (c : Cfg) (k : Colour) (p : Point) (ps : List Point) (m : Memory) :
    Memory.plotAll c k (p :: ps) m = Memory.plotAll c k ps (Memory.plot c k m p) := rfl

theorem Memory.plotAll_append (c : Cfg) (k : Colour) (ps qs : List Point) (m : Memory) :
    Memory.plotAll c k (ps ++ qs) m = Memory.plotAll c k qs (Memory.plotAll c k ps m) := by
  simp [Memory.plotAll, List.foldl_append]

theorem Memory.plotAll_wf {c : Cfg} {k : Colour} (ps : List Point) {m : Memory} (hm : m.wf = true) :
    (Memory.plotAll c k ps m).wf = true := by
  induction ps generalizing m with
  | nil => exact hm
  | cons p ps ih => exact ih (Memory.plot_wf p hm)

theorem Memory.plotAll_within {c : Cfg} {k : Colour} (ps : List Point) {m : Memory}
    (hm : m.within c.fbBytes = true) : (Memory.plotAll c k ps m).within c.fbBytes = true := by
  induction ps generalizing m with
  | nil => exact hm
  | cons p ps ih => exact ih (Memory.plot_within p hm)

/-- `Plot` at a list of points: the points of the list take the colour, every other pixel keeps its value. -/
theorem Memory.pixel_plotAll {c : Cfg} {k : Colour} (ps : List Point) {m : Memory} (hm : m.wf = true) (q : Point)
    (hq : inRange c q.1 q.2 = true) :
    Memory.pixel c (Memory.plotAll c k ps m) q.1 q.2 = if q ∈ ps then colourByte k else Memory.pixel c m q.1 q.2 := by
  induction ps generalizing m with
  | nil => simp
  | cons p ps ih =>
    rw [Memory.plotAll_cons, ih (Memory.plot_wf p hm), Memory.pixel_plot hm p q hq]
    by_cases h1 : q ∈ ps <;> by_cases h2 : q = p <;> simp [h1, h2]

/-! Memories as pictures. -/

/-- A byte is its eight bits. -/
theorem byte_eq_of_bits {a b : Byte} (h : ∀ n < 8, (a >>> (7 - n)) &&& 1#8 = (b >>> (7 - n)) &&& 1#8) : a = b := by
  apply BitVec.eq_of_getLsbD_eq
  intro i hi
  have := h (7 - i) (by omega)
  rw [shift_and_one, shift_and_one, show 7 - (7 - i) = i by omega] at this
  by_cases ha : a.getLsbD i <;> by_cases hb : b.getLsbD i <;> simp_all

/-- The pixel of each bit of the framebuffer (R52). -/
theorem exists_pixel_of_bit {c : Cfg} {i n : Nat} (hi : i < c.fbBytes) (hn : n < 8) :
    ∃ p : Point, inRange c p.1 p.2 = true ∧ byteIndex c p.1 p.2 = i ∧ bitOffset p.1 = n := by
  have hw := width_eq c
  have hr : 0 < c.rowBytes := by have := c.W_lower; omega
  rw [fbBytes_eq] at hi
  have hx : i % c.rowBytes < c.rowBytes := Nat.mod_lt _ hr
  refine ⟨((8 * (i % c.rowBytes) + n : Nat), (i / c.rowBytes : Nat)), ?_, ?_, ?_⟩
  · rw [inRange_iff]
    have : i / c.rowBytes < c.H := Nat.div_lt_of_lt_mul (by rwa [Nat.mul_comm] at hi)
    exact ⟨Int.natCast_nonneg _, by dsimp only; omega, Int.natCast_nonneg _, by dsimp only; exact_mod_cast this⟩
  · dsimp only
    rw [byteIndex_eq, show (8 * (i % c.rowBytes) + n) / 8 = i % c.rowBytes by omega, Nat.mul_comm]
    exact Nat.div_add_mod i c.rowBytes
  · dsimp only
    rw [bitOffset_natCast]; omega

/-- Canonical framebuffers that show the same picture are equal. -/
theorem Memory.ext_of_pixels {c : Cfg} {m m' : Memory} (h : m.wf = true) (h' : m'.wf = true)
    (hw : m.within c.fbBytes = true) (hw' : m'.within c.fbBytes = true)
    (hp : ∀ p : Point, inRange c p.1 p.2 = true → Memory.pixel c m p.1 p.2 = Memory.pixel c m' p.1 p.2) : m = m' := by
  refine Memory.ext_of_wf h h' fun i => ?_
  by_cases hi : i < c.fbBytes
  · refine byte_eq_of_bits fun n hn => ?_
    obtain ⟨p, hr, hbi, hbo⟩ := exists_pixel_of_bit hi hn
    have := hp p hr
    rwa [Memory.pixel, Memory.pixel, hbi, hbo] at this
  · rw [Memory.read_beyond hw (by omega), Memory.read_beyond hw' (by omega)]

end Sys2Proof.Machine
end

