-- ==== Sys2Proof/Laws/Ops.lean ====
section
/-! SUPPORT. One lemma for each shared operation: everything it can do. -/

namespace Sys2Proof.Machine

/-! Ending an operation. -/

theorem raise_eq (st : Status) (s : State) : raise st s = .next { s with status := st } := rfl

theorem complete_eq (s : State) : complete s = .next { s with status := .ok } := rfl

theorem gateFramebuffer_uninitialized {s : State} (h : s.drv = .uninitialized) (k : State → Result) :
    gateFramebuffer s k = raise .notInitialized s := by
  simp [gateFramebuffer, h]

theorem gateFramebuffer_initialized {s : State} (h : s.drv ≠ .uninitialized) (k : State → Result) :
    gateFramebuffer s k = k s := by
  simp [gateFramebuffer, h]

/-! Bus transfers and the reset pulse. -/

theorem sendCmd_eq (code : Byte) (s : State) :
    sendCmd code s = { s with dc := .driven .low, out := s.out ++ [.byte .low code] } := rfl

theorem sendTransfer_eq (code : Byte) (data : List Byte) (s : State) :
    sendTransfer code data s = { s with dc := dcAfter data, out := s.out ++ transferEvents code data } := by
  cases data <;>
    simp [sendTransfer, sendData, sendCmd, dcAfter, transferEvents, State.setDc, State.emit, List.append_assoc]

theorem loadLut_eq (t : Waveform) (s : State) :
    loadLut t s =
      { s with
        dc := dcAfter (s.cfg.lut t)
        out := s.out ++ transferEvents s.cfg.cmd.writeLut (s.cfg.lut t)
        flags := s.flags.lutSent t } := by
  simp [loadLut, sendTransfer_eq, State.setFlags]

theorem resetPulse_eq (s : State) :
    resetPulse s =
      { s with
        rstN := .driven .high
        out := s.out ++ [.rst .high, .delay s.cfg.tResetMs, .rst .low, .delay s.cfg.tResetMs,
                         .rst .high, .delay s.cfg.tResetMs] } := by
  simp [resetPulse, resetStage, State.setRstN, State.emit]

/-! The busy wait. -/

/-- No event of a list is a byte on the bus. -/
def NoBytes (es : List Event) : Prop := ∀ dc b, Event.byte dc b ∉ es

/-- What a busy wait can do: it appends events that are no bus bytes, sets the timeout flags consistently, and takes
samples; nothing else changes. -/
theorem waitLoop_cases (n : Nat) (s : State) :
    ∃ es f k, waitLoop n s =
        { s with out := s.out ++ es, flags := f, busyIn := s.busyIn.drop k, pollCount := s.pollCount + k } ∧
      NoBytes es ∧ f.lutLast = s.flags.lutLast ∧ (f.tmoLast = true → f.tmoSticky = true) ∧
      (s.flags.tmoSticky = true → f.tmoSticky = true) ∧ k ≤ n ∧ es.length ≤ 2 * n + 1 ∧ polls es = k ∧
      (f.tmoLast = false → 1 ≤ k ∧ es.length = 2 * k - 1) ∧ (f.tmoLast = true → k = n ∧ es.length = 2 * n + 1) := by
  induction n generalizing s with
  | zero =>
    exact ⟨[.logTimeout], s.flags.waitTimedOut, 0, by simp [waitLoop, State.emit, State.setFlags],
      by simp [NoBytes], rfl, fun _ => rfl, fun _ => rfl, le_refl _, by simp, rfl, nofun, fun _ => ⟨rfl, rfl⟩⟩
  | succ n ih =>
    cases h : s.busyAt 0 with
    | low =>
      refine ⟨[.poll .low], s.flags.waitEnded, 1, ?_, by simp [NoBytes], rfl, by simp, fun h => h, by omega, by simp, rfl,
        fun _ => ⟨le_refl _, rfl⟩, by simp⟩
      simp [waitLoop, h, poll, State.setFlags, State.emit, State.advanceBusy]
    | high =>
      obtain ⟨es, f, k, he, hb, hl, ht, hs, hk, hlen, hp, hlow, htmo⟩ := ih ((poll s).emit [.delay s.cfg.tPollMs])
      refine ⟨.poll .high :: .delay s.cfg.tPollMs :: es, f, k + 1, ?_, ?_, hl, ht, hs, by omega, ?_, ?_, ?_, ?_⟩
      · simp only [waitLoop, h, he]
        simp [poll, h, State.emit, State.advanceBusy, Nat.add_comm, Nat.add_left_comm]
      · intro dc b
        simpa using hb dc b
      · simp only [List.length_cons]; omega
      · rw [← hp]; simp [polls]
      · intro h0
        obtain ⟨h1, h2⟩ := hlow h0
        simp only [List.length_cons]; omega
      · intro h1
        obtain ⟨h2, h3⟩ := htmo h1
        simp only [List.length_cons]; omega

theorem waitBusy_cases (s : State) :
    ∃ es f k, waitBusy s =
        { s with out := s.out ++ es, flags := f, busyIn := s.busyIn.drop k, pollCount := s.pollCount + k } ∧
      NoBytes es ∧ f.lutLast = s.flags.lutLast ∧ (f.tmoLast = true → f.tmoSticky = true) ∧
      (s.flags.tmoSticky = true → f.tmoSticky = true) ∧ k ≤ s.cfg.pollMax ∧ es.length ≤ 2 * s.cfg.pollMax + 1 ∧
      polls es = k ∧ (f.tmoLast = false → 1 ≤ k ∧ es.length = 2 * k - 1) ∧
      (f.tmoLast = true → k = s.cfg.pollMax ∧ es.length = 2 * s.cfg.pollMax + 1) :=
  waitLoop_cases _ s

section
variable (s : State)

@[simp] theorem waitBusy_fb : (waitBusy s).fb = s.fb := by
  obtain ⟨es, f, k, he, -⟩ := waitBusy_cases s
  rw [he]

@[simp] theorem waitBusy_drv : (waitBusy s).drv = s.drv := by
  obtain ⟨es, f, k, he, -⟩ := waitBusy_cases s
  rw [he]

@[simp] theorem waitBusy_refreshCounter : (waitBusy s).refreshCounter = s.refreshCounter := by
  obtain ⟨es, f, k, he, -⟩ := waitBusy_cases s
  rw [he]

@[simp] theorem waitBusy_status : (waitBusy s).status = s.status := by
  obtain ⟨es, f, k, he, -⟩ := waitBusy_cases s
  rw [he]

@[simp] theorem waitBusy_result : (waitBusy s).result = s.result := by
  obtain ⟨es, f, k, he, -⟩ := waitBusy_cases s
  rw [he]

@[simp] theorem waitBusy_dc : (waitBusy s).dc = s.dc := by
  obtain ⟨es, f, k, he, -⟩ := waitBusy_cases s
  rw [he]

@[simp] theorem waitBusy_cfg : (waitBusy s).cfg = s.cfg := by
  obtain ⟨es, f, k, he, -⟩ := waitBusy_cases s
  rw [he]

@[simp] theorem waitBusy_port : (waitBusy s).port = s.port := by
  obtain ⟨es, f, k, he, -⟩ := waitBusy_cases s
  rw [he]

@[simp] theorem waitBusy_busRequest : (waitBusy s).busRequest = s.busRequest := by
  obtain ⟨es, f, k, he, -⟩ := waitBusy_cases s
  rw [he]

@[simp] theorem waitBusy_rstN : (waitBusy s).rstN = s.rstN := by
  obtain ⟨es, f, k, he, -⟩ := waitBusy_cases s
  rw [he]

@[simp] theorem waitBusy_lutLast : (waitBusy s).flags.lutLast = s.flags.lutLast := by
  obtain ⟨es, f, k, he, -, hl, -⟩ := waitBusy_cases s
  rw [he, hl]

@[simp] theorem resetPulse_fb : (resetPulse s).fb = s.fb := rfl

@[simp] theorem resetPulse_drv : (resetPulse s).drv = s.drv := rfl

@[simp] theorem resetPulse_refreshCounter : (resetPulse s).refreshCounter = s.refreshCounter := rfl

@[simp] theorem resetPulse_status : (resetPulse s).status = s.status := rfl

@[simp] theorem resetPulse_result : (resetPulse s).result = s.result := rfl

@[simp] theorem resetPulse_dc : (resetPulse s).dc = s.dc := rfl

@[simp] theorem resetPulse_cfg : (resetPulse s).cfg = s.cfg := rfl

@[simp] theorem resetPulse_port : (resetPulse s).port = s.port := rfl

@[simp] theorem resetPulse_busRequest : (resetPulse s).busRequest = s.busRequest := rfl

@[simp] theorem resetPulse_rstN : (resetPulse s).rstN = .driven .high := rfl

@[simp] theorem resetPulse_flags : (resetPulse s).flags = s.flags := rfl

@[simp] theorem resetPulse_busyIn : (resetPulse s).busyIn = s.busyIn := rfl

@[simp] theorem resetPulse_pollCount : (resetPulse s).pollCount = s.pollCount := rfl

end

/-- A waveform table is never empty (R5). -/
theorem lut_ne_nil (c : Cfg) (t : Waveform) : c.lut t ≠ [] := by
  intro h
  have h1 := c.lutFull_length
  have h2 := c.lutPartial_length
  cases t <;> simp_all [Cfg.lut]

/-- The framebuffer has at least one byte (R5, R6). -/
theorem fbBytes_pos (c : Cfg) : 1 ≤ c.fbBytes := by
  rw [fbBytes_eq]
  have := c.H_lower
  have := c.W_lower
  have := width_eq c
  exact Nat.mul_pos (by omega) (by omega)

/-! Traces. -/

@[simp] theorem polls_append (es fs : List Event) : polls (es ++ fs) = polls es + polls fs := by simp [polls]

/-- A bus transfer samples no BUSY. -/
@[simp] theorem polls_transferEvents (code : Byte) (data : List Byte) : polls (transferEvents code data) = 0 := by
  simp [polls, transferEvents, List.countP_eq_zero]

@[simp] theorem length_transferEvents (code : Byte) (data : List Byte) :
    (transferEvents code data).length = 1 + data.length := by
  simp [transferEvents, Nat.add_comm]

/-- The one command byte of a transfer is its code. -/
@[simp] theorem command_mem_transferEvents {b code : Byte} {data : List Byte} :
    Event.byte .low b ∈ transferEvents code data ↔ b = code := by
  simp [transferEvents]

/-! Runs of instructions. -/

@[simp] theorem execAll_nil (s : State) : execAll [] s = .next s := rfl

theorem execAll_cons {i : Instr} {s t : State} (h : exec i s = .next t) (ops : List Instr) :
    execAll (i :: ops) s = execAll ops t := by
  simp [execAll, h]

@[simp] theorem refreshesRun_nil (s : State) : refreshesRun [] s = 0 := rfl

theorem refreshesRun_cons {i : Instr} {s t : State} (h : exec i s = .next t) (ops : List Instr) :
    refreshesRun (i :: ops) s = (if isRefresh i = true ∧ s.drv = .ready then 1 else 0) + refreshesRun ops t := by
  simp [refreshesRun, h]

/-! Drawing keeps the framebuffer's form. -/

/-- A change of the framebuffer that keeps its canonical form and its extent. -/
def KeepsForm (c : Cfg) (f : Memory → Memory) : Prop :=
  ∀ m, m.wf = true → m.within c.fbBytes = true → (f m).wf = true ∧ (f m).within c.fbBytes = true

theorem foldl_keepsForm {α : Type} {c : Cfg} (f : Memory → α → Memory) (hf : ∀ a, KeepsForm c fun m => f m a)
    (as : List α) : KeepsForm c fun m => as.foldl f m := by
  induction as with
  | nil => exact fun m h h' => ⟨h, h'⟩
  | cons a as ih => exact fun m h h' => ih _ (hf a m h h').1 (hf a m h h').2

theorem plotAll_keepsForm (c : Cfg) (k : Colour) (ps : List Point) : KeepsForm c (Memory.plotAll c k ps) :=
  fun _ h h' => ⟨Memory.plotAll_wf ps h, Memory.plotAll_within ps h'⟩

theorem drawLine_keepsForm (c : Cfg) (xa ya xb yb : Int) (k : Colour) : KeepsForm c (drawLine c xa ya xb yb k) :=
  plotAll_keepsForm c k _

theorem drawRect_keepsForm (c : Cfg) (x y : Int) (w h : Nat) (k : Colour) (mode : FillMode) :
    KeepsForm c (drawRect c x y w h k mode) := by
  cases mode with
  | filled =>
    exact foldl_keepsForm
      (fun m row => Memory.plotAll c k ((clippedRange x w c.W).map fun col => (col, row)) m)
      (fun _ => plotAll_keepsForm c k _) _
  | outline =>
    intro m hm hw
    simp only [drawRect, outlineRect]
    split
    · exact ⟨hm, hw⟩
    · have h1 := drawLine_keepsForm c x y (x + w - 1) y k m hm hw
      have h2 := drawLine_keepsForm c x (y + h - 1) (x + w - 1) (y + h - 1) k _ h1.1 h1.2
      have h3 := drawLine_keepsForm c x y x (y + h - 1) k _ h2.1 h2.2
      exact drawLine_keepsForm c (x + w - 1) y (x + w - 1) (y + h - 1) k _ h3.1 h3.2

theorem drawText_keepsForm (c : Cfg) (x y : Int) (gs : Nat) (k : Colour) (bytes : List Byte) :
    KeepsForm c (drawText c x y gs k bytes) :=
  foldl_keepsForm (drawGlyph c gs k) (fun p => drawRect_keepsForm c p.1 p.2 (gs - 2) (gs - 2) k .outline) _

theorem fillLight_keepsForm (c : Cfg) : KeepsForm c (Memory.fillLight c.fbBytes) :=
  fun _ h h' => ⟨Memory.fillLight_wf h _, Memory.fillLight_within h' (le_refl _)⟩

/-- `DrawLine` in pixels: the points of the line take the colour, the other pixels of the panel keep their value. -/
theorem pixel_drawLine {c : Cfg} {m : Memory} (hm : m.wf = true) (xa ya xb yb : Int) (k : Colour) (q : Point)
    (hq : inRange c q.1 q.2 = true) :
    Memory.pixel c (drawLine c xa ya xb yb k m) q.1 q.2 =
      if q ∈ linePoints xa ya xb yb then colourByte k else Memory.pixel c m q.1 q.2 :=
  Memory.pixel_plotAll _ hm q hq

theorem mem_clippedRange {a z : Int} {n bound : Nat} :
    z ∈ clippedRange a n bound ↔ a ≤ z ∧ z < a + n ∧ 0 ≤ z ∧ z < bound := by
  simp only [clippedRange, List.mem_map, List.mem_range]
  constructor
  · rintro ⟨i, hi, rfl⟩; omega
  · rintro ⟨h1, h2, h3, h4⟩
    exact ⟨(z - max a 0).toNat, by omega, by omega⟩

/-- An outline glyph in pixels is the fold's own step, so a drawn list of glyphs splits at any point. -/
theorem drawText_append (c : Cfg) (gs : Nat) (k : Colour) (ps qs : List Point) (m : Memory) :
    (ps ++ qs).foldl (drawGlyph c gs k) m = qs.foldl (drawGlyph c gs k) (ps.foldl (drawGlyph c gs k) m) :=
  List.foldl_append

/-! One step. -/

/-- What a step that answers a next state can have done. -/
theorem step_cases {s t : State} (h : step s = .next t) :
    (fetch s = .idle ∧ t = s) ∨ (∃ i s', fetch s = .run i s' ∧ exec i s' = .next t) ∨
      (∃ s', fetch s = .illegal s' ∧ t = { s' with status := .invalidParameter }) := by
  unfold step at h
  split at h
  · exact .inl ⟨‹_›, (Host.Outcome.next.inj h).symm⟩
  · exact .inr (.inl ⟨_, _, ‹_›, h⟩)
  · exact .inr (.inr ⟨_, ‹_›, (Host.Outcome.next.inj h).symm⟩)
  · exact absurd h nofun

/-- What a fetch that runs an instruction has done: a whole command consumed from the port, or the pending bus transfer. -/
theorem fetch_run_cases {s s' : State} {i : Instr} (h : fetch s = .run i s') :
    (s.busRequest = [] ∧ ∃ rest, decode s.port = .legal i rest ∧ s' = { s with port := rest }) ∨
      (s.busRequest ≠ [] ∧ decodeBus s.cfg s.busRequest = some i ∧ s' = { s with busRequest := [] }) := by
  unfold fetch at h
  split at h
  · next hb =>
    left
    unfold fetchCommand at h
    split at h
    · exact absurd h nofun
    · next rest hd => cases h; exact ⟨hb, rest, hd, rfl⟩
    · exact absurd h nofun
  · next hb =>
    right
    unfold fetchBus at h
    split at h
    · next hd => cases h; exact ⟨by rw [hb]; exact List.cons_ne_nil _ _, hd, rfl⟩
    · exact absurd h nofun

end Sys2Proof.Machine
end

