-- ==== Sys2Proof/Laws/PerInstr.lean ====
section
/-! SUPPORT. Statements about every instruction as syntax, one lemma per constructor. -/

namespace Sys2Proof.Laws

/-- How long an instruction's encoding is: ten bytes and the payload for a host operation (R80), one command byte for a bus
command, with the thirty bytes of its table for `WRITE_LUT` (R199). -/
def EncodedShape.Statement (i : Instr) : Prop :=
  ∀ c : Cfg, (encode c i).length =
    match i with
    | .text _ _ _ _ bytes => 10 + bytes.length
    | .writeLut _ => 31
    | _ => if i.isHostOp then 10 else 1

namespace EncodedShape

theorem host_length (c : Cfg) {i : Instr} {w : Word80} (h : encodeWord i = some w) :
    (encode c i).length = 10 + (payloadOf i).length := by
  rw [encode, h]
  simp only [bytesOfWord, List.length_append, List.length_cons, List.length_nil]

theorem clear : Statement .clear := fun c => host_length c rfl

theorem setpx (x y : Int) (k : Colour) : Statement (.setpx x y k) := fun c => host_length c rfl

theorem getpx (x y : Int) : Statement (.getpx x y) := fun c => host_length c rfl

theorem line (x0 y0 x1 y1 : Int) (k : Colour) : Statement (.line x0 y0 x1 y1 k) := fun c => host_length c rfl

theorem rect (x y : Int) (w h : Nat) (k : Colour) (m : FillMode) : Statement (.rect x y w h k m) := fun c => host_length c rfl

theorem text (x y : Int) (gs : Nat) (k : Colour) (bytes : List Byte) : Statement (.text x y gs k bytes) := fun c => host_length c rfl

theorem init : Statement .init := fun c => host_length c rfl

theorem refresh (mode : RefreshMode) : Statement (.refresh mode) := fun c => host_length c rfl

theorem sleep : Statement .sleep := fun c => host_length c rfl

theorem wakeup : Statement .wakeup := fun c => host_length c rfl

theorem swReset : Statement .swReset := fun _ => rfl

theorem driverOutputControl : Statement .driverOutputControl := fun _ => rfl

theorem boosterSoftStart : Statement .boosterSoftStart := fun _ => rfl

theorem writeVcom : Statement .writeVcom := fun _ => rfl

theorem dummyLinePeriod : Statement .dummyLinePeriod := fun _ => rfl

theorem gateTime : Statement .gateTime := fun _ => rfl

theorem dataEntryMode : Statement .dataEntryMode := fun _ => rfl

theorem writeLut (t : Waveform) : Statement (.writeLut t) := fun c => by
  have h1 := c.lutFull_length
  have h2 := c.lutPartial_length
  cases t <;> simp [encode, encodeWord, encodeBus, Cfg.lut, h1, h2]

theorem setRamXRange : Statement .setRamXRange := fun _ => rfl

theorem setRamYRange : Statement .setRamYRange := fun _ => rfl

theorem setRamXCounter : Statement .setRamXCounter := fun _ => rfl

theorem setRamYCounter : Statement .setRamYCounter := fun _ => rfl

theorem writeRam : Statement .writeRam := fun _ => rfl

theorem displayUpdateControl2 : Statement .displayUpdateControl2 := fun _ => rfl

theorem masterActivation : Statement .masterActivation := fun _ => rfl

theorem terminateFrame : Statement .terminateFrame := fun _ => rfl

theorem deepSleep : Statement .deepSleep := fun _ => rfl

end EncodedShape

end Sys2Proof.Laws
end

