-- ==== Sys2Proof/Tests/Slice0.lean ====
section
/-! SUPPORT. The session's own tests: the `WellFormed` smoke test, decoding against the words of `95_test_vectors.md`
section 3, one-step vectors of its sections 4 to 9, and for each obligation with hypotheses a state that meets them. The
expected values are the spec's. -/

namespace Sys2Proof.Tests

open Sys2Proof.Machine

/-! The test configurations of `95_test_vectors.md` section 1. -/

/-- The bus codes of the test configurations. -/
def testCodes : CmdCodes where
  swReset := 0xA1
  driverOutputControl := 0xA2
  boosterSoftStart := 0xA3
  writeVcom := 0xA4
  dummyLinePeriod := 0xA5
  gateTime := 0xA6
  dataEntryMode := 0xA7
  writeLut := 0xA8
  setRamXRange := 0xB1
  setRamYRange := 0xB2
  setRamXCounter := 0xB3
  setRamYCounter := 0xB4
  writeRam := 0xB5
  displayUpdateControl2 := 0xB6
  masterActivation := 0xB7
  terminateFrame := 0xB8
  deepSleep := 0xC1

/-- The payloads of the test configurations, with the panel's two sizes less one, the width in bytes. -/
def testPayloads (lastColumnByte lastRow : Byte) : Payloads where
  driverOutputControl := [lastRow, 0x00, 0x00]
  boosterSoftStart := [0xD1, 0xD2, 0xD3]
  writeVcom := [0x41]
  dummyLinePeriod := [0x51]
  gateTime := [0x61]
  dataEntryMode := [0x03]
  ramXRange := [0x00, lastColumnByte]
  ramYRange := [0x00, 0x00, lastRow, 0x00]
  ramXCounter := [0x00]
  ramYCounter := [0x00, 0x00]
  displayUpdateControl2 := [0xC4]
  deepSleep := [0x01]

/-- Thirty bytes from `b` up. -/
def testTable (b : Nat) : List Byte := (List.range 30).map fun i => BitVec.ofNat 8 (b + i)

/-- `Cfg_T16`. -/
def cfg16 : Cfg where
  W := 16
  H := 8
  N := 3
  pollMax := 3
  lutFull := testTable 0x40
  lutPartial := testTable 0x80
  cmd := testCodes
  pay := testPayloads 0x01 0x07

/-- `Cfg_T32`. -/
def cfg32 : Cfg where
  W := 32
  H := 16
  N := 3
  pollMax := 3
  lutFull := testTable 0x40
  lutPartial := testTable 0x80
  cmd := testCodes
  pay := testPayloads 0x03 0x0F

/-- A launch state with BUSY samples to come. -/
def launch (c : Cfg) (busy : List Level) : State := { State.resetWith c [] with busyIn := busy }

/-- The state "after `INIT`" of the vectors, with BUSY samples to come. -/
def ready (c : Cfg) (busy : List Level) : State :=
  { launch c busy with
    drv := .ready, flags := ⟨false, false, .full⟩, rstN := .driven .high, dc := .driven .high }

/-- The same, asleep. -/
def asleep (c : Cfg) (busy : List Level) : State := { ready c busy with drv := .sleeping }

/-- The state a step leaves, the given one where it stops. -/
def after (r : Result) (s : State) : State :=
  match r with
  | .next t => t
  | _ => s

/-- The registers as the vectors write them: `STATUS / RESULT / FLAGS / DRV_STATE / REFRESH_COUNTER`. -/
def registers (s : State) : List (Option Nat) := [readSR 0 s, readSR 1 s, readSR 2 s, readSR 3 s, readSR 4 s]

/-- The framebuffer's bytes. -/
def picture (s : State) : List Byte := Memory.bytes s.cfg.fbBytes s.fb

/-- Whether a result is the next state `t`. -/
def isNext (r : Result) (t : State) : Bool :=
  match r with
  | .next u => decide (u = t)
  | _ => false

/-! `WellFormed` refuses each operand out of its field's range. -/

theorem test_wf_refuses_coordinate_low : ¬ (Instr.setpx (-32769) 0 .dark).WellFormed := by decide
theorem test_wf_refuses_coordinate_high : ¬ (Instr.getpx 0 32768).WellFormed := by decide
theorem test_wf_refuses_line_endpoint : ¬ (Instr.line 0 0 40000 0 .dark).WellFormed := by decide
theorem test_wf_refuses_size : ¬ (Instr.rect 0 0 65536 1 .dark .filled).WellFormed := by decide
theorem test_wf_refuses_glyph_size : ¬ (Instr.text 0 0 256 .dark [0x41]).WellFormed := by decide
theorem test_wf_refuses_long_text (bytes : List Byte) (h : 65535 < bytes.length) :
    ¬ (Instr.text 0 0 6 .dark bytes).WellFormed := by
  have hn : ¬ bytes.length ≤ 65535 := by omega
  simp [Instr.WellFormed, Instr.wf, sizeOk, hn]
theorem test_wf_accepts_the_extremes : (Instr.rect (-32768) 32767 65535 0 .light .outline).WellFormed := by decide

/-! Decoding: the words of vectors V60 to V87. -/

theorem test_decode_clear : decode [0x01, 0, 0, 0, 0, 0, 0, 0, 0, 0] = .legal .clear [] := by decide
theorem test_decode_setpx :
    decode [0x02, 0x00, 0xFF, 0xFF, 0x00, 0x00, 0, 0, 0, 0] = .legal (.setpx (-1) 0 .dark) [] := by decide
theorem test_decode_getpx : decode [0x03, 0x00, 0x00, 0x10, 0, 0, 0, 0, 0, 0] = .legal (.getpx 16 0) [] := by decide
theorem test_decode_line :
    decode [0x10, 0x01, 0x00, 0x00, 0x00, 0x07, 0x00, 0x07, 0x00, 0x00] = .legal (.line 0 7 7 0 .light) [] := by decide
theorem test_decode_rect :
    decode [0x11, 0x00, 0xFF, 0xFF, 0xFF, 0xFF, 0x00, 0x03, 0x00, 0x03] = .legal (.rect (-1) (-1) 3 3 .dark .outline) [] := by
  decide
theorem test_decode_text_then_clear :
    decode [0x12, 0, 0, 0, 0, 0, 0, 0x06, 0, 0x02, 0x41, 0x42, 0x01, 0, 0, 0, 0, 0, 0, 0, 0, 0] =
      .legal (.text 0 0 6 .dark [0x41, 0x42]) [0x01, 0, 0, 0, 0, 0, 0, 0, 0, 0] := by decide
theorem test_decode_init : decode [0x20, 0, 0, 0, 0, 0, 0, 0, 0, 0] = .legal .init [] := by decide
theorem test_decode_refresh : decode [0x21, 0x02, 0, 0, 0, 0, 0, 0, 0, 0] = .legal (.refresh .fullRefresh) [] := by decide
theorem test_decode_sleep : decode [0x22, 0, 0, 0, 0, 0, 0, 0, 0, 0] = .legal .sleep [] := by decide
theorem test_decode_wakeup : decode [0x23, 0, 0, 0, 0, 0, 0, 0, 0, 0] = .legal .wakeup [] := by decide
theorem test_decode_reserved_bit :
    decode [0x22, 0x04, 0, 0, 0, 0, 0, 0, 0, 0] = .illegal .mustBeZeroBitSet [] := by decide
theorem test_decode_illegal_text_consumes_payload :
    decode [0x12, 0, 0, 0, 0, 0, 0x01, 0x06, 0, 0x02, 0x41, 0x42, 0x99] = .illegal .mustBeZeroBitSet [0x99] := by decide
theorem test_decode_unassigned : decode [0x13, 0, 0, 0, 0, 0, 0, 0, 0, 0] = .illegal .unassignedOpcode [] := by decide
theorem test_decode_short : decode [0x12, 0, 0, 0, 0, 0, 0, 0x06, 0, 0x02, 0x41] = .incomplete := by decide

/-- Each bus command's code byte under `Cfg_T16` decodes to it. -/
theorem test_decode_bus :
    [0xA1, 0xA2, 0xA3, 0xA4, 0xA5, 0xA6, 0xA7, 0xA8, 0xB1, 0xB2, 0xB3, 0xB4, 0xB5, 0xB6, 0xB7, 0xB8, 0xC1].map
        (fun b : Byte => decodeBus cfg16 [b]) =
      [.swReset, .driverOutputControl, .boosterSoftStart, .writeVcom, .dummyLinePeriod, .gateTime, .dataEntryMode,
       .writeLut .fullUpdate, .setRamXRange, .setRamYRange, .setRamXCounter, .setRamYCounter, .writeRam,
       .displayUpdateControl2, .masterActivation, .terminateFrame, .deepSleep].map some := by decide
theorem test_decode_bus_partial_table :
    decodeBus cfg16 (0xA8 :: testTable 0x80) = some (.writeLut .partialUpdate) := by decide
theorem test_decode_bus_unknown : decodeBus cfg16 [0x00] = none := by decide

/-- The host's numbering of a table row: bit 79 is the first bit on the port. -/
theorem test_table_word : decodeTableWord 80 0x0201000F000700000000 = some (.setpx 15 7 .light) := by decide
theorem test_table_word_runs_first :
    step (State.reset.withFetchWord 80 0x23000000000000000000) =
      .next { State.reset with status := .notInitialized } := rfl

/-! One step of each operation. -/

/-- V1. -/
theorem test_setpx_first_pixel :
    picture (after (exec (.setpx 0 0 .dark) (ready cfg16 [])) (ready cfg16 [])) = 0x7F :: List.replicate 15 0xFF := by
  decide
/-- V6: no wrap to the next row. -/
theorem test_setpx_off_panel :
    isNext (exec (.setpx 16 0 .dark) (ready cfg16 [])) { ready cfg16 [] with status := .invalidParameter } = true := by
  decide
/-- V4. -/
theorem test_getpx_dark :
    registers (after (exec (.getpx 9 2) { ready cfg16 [] with fb := [(5, 0xBF)], result := 0xFF }) (ready cfg16 [])) =
      [some 0, some 0, some 4, some 1, some 0] := by decide
/-- V7. -/
theorem test_getpx_sentinel :
    registers (after (exec (.getpx (-1) 0) (ready cfg16 [])) (ready cfg16 [])) =
      [some 2, some 0xFF, some 4, some 1, some 0] := by decide
/-- V9. -/
theorem test_clear :
    isNext (exec .clear { ready cfg16 [] with fb := [(0, 0x00), (15, 0x12)] }) (ready cfg16 []) = true := by decide
/-- V8. -/
theorem test_clear_before_init :
    isNext (exec .clear (launch cfg16 [])) { launch cfg16 [] with status := .notInitialized } = true := by decide
/-- V11: the points of V10 in the same order, drawn from the other end. -/
theorem test_line_from_the_other_end : linePoints 2 1 0 0 = [(0, 0), (1, 0), (2, 1)] := by decide
/-- V17. -/
theorem test_line :
    (after (exec (.line 3 2 0 0 .dark) (ready cfg16 [])) (ready cfg16 [])).fb = [(0, 0x7F), (2, 0x9F), (4, 0xEF)] := by
  decide
/-- V23. -/
theorem test_rect_filled_clipped :
    (after (exec (.rect 14 6 4 4 .dark .filled) (ready cfg16 [])) (ready cfg16 [])).fb = [(13, 0xFC), (15, 0xFC)] := by
  decide
/-- V21. -/
theorem test_rect_outline :
    (after (exec (.rect 2 1 5 4 .dark .outline) (ready cfg16 [])) (ready cfg16 [])).fb =
      [(2, 0xC1), (4, 0xDD), (6, 0xDD), (8, 0xC1)] := by decide
/-- V53: the origins of a text that wraps back to its own column. -/
theorem test_text_origins :
    glyphOrigins cfg32 2 8 [0x41, 0x42, 0x43, 0x44, 0x45] 2 1 = [(2, 1), (10, 1), (18, 1), (2, 11), (10, 11)] := by decide
/-- V56. -/
theorem test_text_smallest :
    (after (exec (.text 0 0 3 .dark [0x41, 0x42]) (ready cfg32 [])) (ready cfg32 [])).fb = [(0, 0x6F)] := by decide
/-- V34, with BUSY stuck: the registers and the number of events. -/
theorem test_init_timeout :
    let t := after (exec .init (launch cfg16 [.high, .high, .high])) (launch cfg16 [])
    registers t = [some 0, some 0, some 7, some 1, some 0] ∧ t.out.length = 61 := by decide
/-- V35. -/
theorem test_init_again :
    isNext (exec .init (asleep cfg16 [])) { asleep cfg16 [] with status := .initFailed } = true := by decide
/-- V36. -/
theorem test_refresh_partial :
    let t := after (exec (.refresh .partialRefresh) (ready cfg16 [.low])) (launch cfg16 [])
    registers t = [some 0, some 0, some 8, some 1, some 1] ∧
      t.out.take 11 = [.byte .low 0xB1, .byte .high 0x00, .byte .high 0x01, .byte .low 0xB2, .byte .high 0x00,
        .byte .high 0x00, .byte .high 0x07, .byte .high 0x00, .byte .low 0xB3, .byte .high 0x00, .byte .low 0xB4] ∧
      t.out.length = 66 := by decide
/-- V42: the third refresh is forced full. -/
theorem test_refresh_forced_full :
    registers (after (exec (.refresh .partialRefresh) { ready cfg16 [.low] with refreshCounter := 2 }) (launch cfg16 [])) =
      [some 0, some 0, some 4, some 1, some 3] := by decide
/-- V38. -/
theorem test_sleep :
    isNext (exec .sleep (ready cfg16 []))
      { ready cfg16 [] with out := [.byte .low 0xC1, .byte .high 0x01], drv := .sleeping } = true := by decide
/-- V38. -/
theorem test_wakeup :
    (after (exec .wakeup (asleep cfg16 [.low])) (launch cfg16 [])).out =
      [.rst .high, .delay 200, .rst .low, .delay 200, .rst .high, .delay 200, .poll .low, .byte .low 0xA1] := by decide
/-- R193 under `Cfg_T16`. -/
theorem test_bus_payload :
    (after (exec .driverOutputControl (ready cfg16 [])) (launch cfg16 [])).out =
      [.byte .low 0xA2, .byte .high 0x07, .byte .high 0x00, .byte .high 0x00] := by decide
/-- A bus transfer handed over alone runs as the next step. -/
theorem test_bus_request_runs :
    isNext (step ((ready cfg16 []).withFetchWord 8 0xB7))
      { ready cfg16 [] with dc := .driven .low, out := [.byte .low 0xB7] } = true := by decide
/-- P5 step 3: an illegal word is refused before the driver state is looked at. -/
theorem test_step_illegal_word :
    isNext (step { launch cfg16 [] with port := [0x22, 0x04, 0, 0, 0, 0, 0, 0, 0, 0, 0x77] })
      { launch cfg16 [] with port := [0x77], status := .invalidParameter } = true := by decide

/-! Witnesses: for each obligation with hypotheses, a state and operands that meet them, at the boundaries of its
clauses. -/

theorem witness_EncodedOperationsDecodeBack :
    (Instr.text (-32768) 32767 255 .light [0x0A]).isHostOp = true ∧
      (Instr.text (-32768) 32767 255 .light [0x0A]).WellFormed := by decide
theorem witness_DecodedCommandsHaveOneSpelling :
    decode [0x21, 0, 0, 0, 0, 0, 0, 0, 0, 0, 0x55] = .legal (.refresh .partialRefresh) [0x55] := by decide
theorem witness_LengthRuleKeepsThePortInStep :
    (([0x41] : List Byte).length < (0x00 : Byte).toNat * 256 + (0x02 : Byte).toNat) ∧
      (0x00 : Byte).toNat * 256 + (0x02 : Byte).toNat ≤ ([0x41, 0x42] : List Byte).length := by decide
theorem witness_BusCommandsDecodeBack :
    (Instr.writeLut .partialUpdate).isHostOp = false ∧ cfg16.lutFull ≠ cfg16.lutPartial := by decide
theorem witness_StepRunsTheDecodedInstruction_command :
    (launch cfg16 []).busRequest = [] ∧ decode [0x20, 0, 0, 0, 0, 0, 0, 0, 0, 0] = .legal .init [] := by decide
theorem witness_StepRunsTheDecodedInstruction_bus :
    ([0xA8, 0x40] : List Byte) ≠ [] ∧ decodeBus cfg16 [0xA8, 0x40] = some (.writeLut .fullUpdate) := by decide
theorem witness_StepRunsTheDecodedInstruction_waits :
    (launch cfg16 []).busRequest = [] ∧ decode (launch cfg16 []).port = .incomplete ∧
      decode [0x01, 0, 0, 0, 0, 0, 0, 0, 0] = .incomplete := by decide
theorem witness_IllegalWordChangesOnlyStatus :
    (launch cfg16 []).busRequest = [] ∧ decode [0, 0, 0, 0, 0, 0, 0, 0, 0, 0] = .illegal .unassignedOpcode [] := by
  decide
theorem witness_PlacedCommandRunsNext :
    (launch cfg16 []).busRequest = [] ∧
      decodeTableWord 80 0x12000000000000060002 = some (.text 0 0 6 .dark [0, 0]) := by decide
theorem witness_UninitializedGate :
    (launch cfg16 []).drv = .uninitialized ∧ (ready cfg16 []).drv ≠ .uninitialized ∧
      (asleep cfg16 []).drv ≠ .uninitialized := by decide
theorem witness_ClearMakesEveryByteLight :
    (launch cfg16 []).drv = .uninitialized ∧ (asleep cfg16 []).drv ≠ .uninitialized ∧
      ({ asleep cfg16 [] with fb := [(0, 0), (15, 1)] } : State).FbOk := by decide
theorem witness_SetpxPaintsOnePixel :
    let s : State := { ready cfg16 [] with fb := [(3, 0x00), (15, 0x7F)] }
    (launch cfg16 []).drv = .uninitialized ∧
      ¬ (0 ≤ (0 : Int) ∧ (0 : Int) < s.cfg.W ∧ 0 ≤ (8 : Int) ∧ (8 : Int) < s.cfg.H) ∧
      s.drv ≠ .uninitialized ∧ s.FbOk ∧ (0 ≤ (15 : Int) ∧ (15 : Int) < s.cfg.W ∧ 0 ≤ (7 : Int) ∧ (7 : Int) < s.cfg.H) := by
  decide
theorem witness_OffPanelAccessesAreRejected :
    (ready cfg16 []).drv ≠ .uninitialized ∧
      ¬ (0 ≤ (16 : Int) ∧ (16 : Int) < (ready cfg16 []).cfg.W ∧ 0 ≤ (0 : Int) ∧ (0 : Int) < (ready cfg16 []).cfg.H) ∧
      ¬ (0 ≤ (0 : Int) ∧ (0 : Int) < (ready cfg16 []).cfg.W ∧ 0 ≤ (-1 : Int) ∧ (-1 : Int) < (ready cfg16 []).cfg.H) := by
  decide
theorem witness_GetpxReturnsTheStoredBit :
    (launch cfg16 []).drv = .uninitialized ∧ (ready cfg16 []).drv ≠ .uninitialized ∧
      ¬ (0 ≤ (-1 : Int) ∧ (-1 : Int) < (ready cfg16 []).cfg.W ∧ 0 ≤ (1 : Int) ∧ (1 : Int) < (ready cfg16 []).cfg.H) ∧
      (0 ≤ (0 : Int) ∧ (0 : Int) < (ready cfg16 []).cfg.W ∧ 0 ≤ (7 : Int) ∧ (7 : Int) < (ready cfg16 []).cfg.H) := by
  decide
theorem witness_SetThenGetReturnsTheColour :
    (ready cfg16 []).drv ≠ .uninitialized ∧ (ready cfg16 []).FbOk ∧ inRange cfg16 15 7 = true ∧
      inRange cfg16 14 7 = true ∧ ((14, 7) : Int × Int) ≠ (15, 7) := by decide
theorem witness_PixelsAndBitsCorrespond :
    inRange cfg16 15 7 = true ∧ 15 < cfg16.fbBytes ∧ byteIndex cfg16 15 7 = 15 ∧ bitOffset 15 = 7 := by decide
theorem witness_AByteHoldsEightPixels : 15 < cfg16.fbBytes ∧ 7 < 8 := by decide
theorem witness_PlotIsClipped :
    Memory.wf [(0, 0x12)] = true ∧ inRange cfg16 16 0 = false ∧ inRange cfg16 0 0 = true ∧ cfg16.fbBytes ≤ 16 := by decide
theorem witness_LinePaintsItsPoints :
    let s : State := { asleep cfg16 [] with fb := [(7, 0x0F)] }
    s.drv ≠ .uninitialized ∧ s.FbOk ∧ inRange s.cfg 2 1 = true ∧ ((2, 1) : Int × Int) ∈ linePoints 0 0 2 1 := by decide
theorem witness_LinePointsAreAUnitStepWalk :
    (linePoints 0 0 2 1)[1]? = some (1, 0) ∧ (linePoints 0 0 2 1)[2]? = some (2, 1) := by decide
theorem witness_LinePointsRoundTheIdealLine :
    linePoints 0 0 2 1 = (List.range 3).map (fun k : Nat => ((k : Int), (((2 * k * 1 + 2 - 1) / (2 * 2) : Nat) : Int))) ∧
      linePoints 1 0 0 2 = (List.range 3).map (fun k : Nat => ((((2 * k * 1 + 2 - 1) / (2 * 2) : Nat) : Int), 2 - (k : Int))) ∧
      linePoints 4 5 4 5 = [(4, 5)] := by decide
theorem witness_FilledRectPaintsItsArea :
    (ready cfg16 []).drv ≠ .uninitialized ∧ (ready cfg16 []).FbOk ∧ inRange cfg16 6 4 = true := by decide
theorem witness_OutlineRectPaintsItsPerimeter :
    (asleep cfg16 []).drv ≠ .uninitialized ∧ (asleep cfg16 []).FbOk ∧ inRange cfg16 2 1 = true := by decide
theorem witness_ThinRectsNeedNoFilling :
    (ready cfg16 []).drv ≠ .uninitialized ∧ (ready cfg16 []).FbOk ∧ ((0 : Nat) = 0 ∨ (5 : Nat) = 0) ∧
      ((2 : Nat) ≤ 2 ∨ (5 : Nat) ≤ 2) := by decide
theorem witness_TextChecksItsOperands :
    (([] : List Byte).length = 0 ∨ 3 < 3) ∧ (([0x41] : List Byte).length = 0 ∨ 2 < 3) := by decide
theorem witness_TextDrawsAnOutlinePerGlyph :
    (ready cfg32 []).drv ≠ .uninitialized ∧ (ready cfg32 []).FbOk ∧ ([0x41] : List Byte) ≠ [] ∧ 3 ≤ 3 ∧
      inRange cfg32 0 0 = true := by decide
theorem witness_TextIgnoresCharacterCodes (n : Nat) :
    ([0x41, 0x0A, 0x00] : List Byte).length = ([0xFF, 0x0A, 0x42] : List Byte).length ∧
      (([0x41, 0x0A, 0x00] : List Byte)[n]? = some 0x0A#8 ↔ ([0xFF, 0x0A, 0x42] : List Byte)[n]? = some 0x0A#8) := by
  refine ⟨rfl, ?_⟩
  rcases n with _ | _ | _ | n <;> simp
theorem witness_TextCursorMovesLineByLine :
    newline ∉ ([0x41, 0x42] : List Byte) ∧ (16 : Int) ≤ cfg32.H ∧ (20 : Int) + 6 * (2 : Nat) ≤ cfg32.W ∧
      (0x41 : Byte) ≠ newline ∧ (cfg32.W : Int) < 27 + (6 : Nat) ∧ (cfg32.H : Int) < 17 := by decide
theorem witness_TextWithoutRoomGoesDownOneColumn :
    newline ∉ ([0x41, 0x42] : List Byte) ∧ (cfg32.W : Int) < 30 + (6 : Nat) ∧ (0 : Int) ≤ cfg32.H ∧
      (ready cfg32 []).drv ≠ .uninitialized ∧ ([0x41] : List Byte) ≠ [] ∧ 3 ≤ 6 ∧
      ((ready cfg32 []).cfg.H : Int) < 17 := by decide
theorem witness_BusyWaitEndsLowOrTimesOut_first :
    0 < (ready cfg16 [.low]).cfg.pollMax ∧ (ready cfg16 [.low]).busyAt 0 = .low := by decide
theorem witness_BusyWaitEndsLowOrTimesOut_last :
    2 < (ready cfg16 [.high, .high, .low]).cfg.pollMax ∧
      (∀ j < 2, (ready cfg16 [.high, .high, .low]).busyAt j = .high) ∧
      (ready cfg16 [.high, .high, .low]).busyAt 2 = .low := by decide
theorem witness_BusyWaitEndsLowOrTimesOut_timeout :
    ∀ j < (ready cfg16 [.high, .high, .high]).cfg.pollMax, (ready cfg16 [.high, .high, .high]).busyAt j = .high := by
  decide
theorem witness_InitSendsItsSequence :
    (asleep cfg16 []).drv ≠ .uninitialized ∧ (launch cfg16 []).drv = .uninitialized ∧
      ({ launch cfg16 [] with fb := [(4, 0x55)] } : State).FbOk := by decide
theorem witness_ProtocolOperationsAreRefusedOutOfState :
    (asleep cfg16 []).drv ≠ .uninitialized ∧ (asleep cfg16 []).drv ≠ .ready ∧ (ready cfg16 []).drv ≠ .sleeping := by
  decide
theorem witness_RefreshSendsItsSequence :
    (asleep cfg16 []).drv ≠ .ready ∧ (ready cfg16 [.high]).drv = .ready ∧
      ((2 : Nat) + 1) % (ready cfg16 []).cfg.N = 0 := by decide
theorem witness_SleepSendsDeepSleep : (launch cfg16 []).drv ≠ .ready ∧ (ready cfg16 []).drv = .ready := by decide
theorem witness_WakeupResetsTheController :
    (ready cfg16 []).drv ≠ .sleeping ∧ (asleep cfg16 [.high, .low]).drv = .sleeping := by decide
theorem witness_DriverStateFollowsTheTable : ∃ t, exec .sleep (ready cfg16 []) = .next t := ⟨_, rfl⟩
theorem witness_CounterCountsRefreshes : ∃ t, exec (.refresh .fullRefresh) (ready cfg16 [.low]) = .next t := ⟨_, rfl⟩
/-- Two refreshes run and one is refused, asleep; the next is number 3, a multiple of `N`. -/
theorem witness_EveryNthRefreshIsFull :
    let ops : List Instr := [.refresh .partialRefresh, .sleep, .refresh .fullRefresh, .wakeup, .clear, .refresh .fullRefresh]
    let s := ready cfg16 [.low, .low, .low]
    (launch cfg16 []).drv = .uninitialized ∧ s.drv = .ready ∧ s.refreshCounter = 0 ∧ refreshesRun ops s = 2 ∧
      (after (execAll ops s) s).drv = .ready ∧ (2 + 1) % s.cfg.N = 0 := ⟨rfl, rfl, rfl, rfl, rfl, rfl⟩
theorem witness_EventCounts :
    (launch cfg16 []).drv = .uninitialized ∧ (ready cfg16 []).drv = .ready ∧ (asleep cfg16 []).drv = .sleeping ∧
      (after (exec .wakeup (asleep cfg16 [.low])) (launch cfg16 [])).flags.tmoLast = false ∧
      (after (exec .wakeup (asleep cfg16 [.high, .high, .high])) (launch cfg16 [])).flags.tmoLast = true :=
  ⟨rfl, rfl, rfl, rfl, rfl⟩
theorem witness_PayloadBusCommandsSendTheirPayload :
    (Instr.deepSleep, cfg16.cmd.deepSleep, cfg16.pay.deepSleep) ∈
      [(Instr.deepSleep, (ready cfg16 []).cfg.cmd.deepSleep, (ready cfg16 []).cfg.pay.deepSleep)] := by decide
theorem witness_ResetIsSafe :
    Memory.wf [(0, 0x00), (15, 0xFE)] = true ∧ Memory.within cfg16.fbBytes [(0, 0x00), (15, 0xFE)] = true := by decide
theorem witness_StepKeepsSafe :
    State.Safe { ready cfg16 [.low] with port := [0x20, 0, 0, 0, 0, 0, 0, 0, 0, 0] } ∧
      ∃ t, step { ready cfg16 [.low] with port := [0x20, 0, 0, 0, 0, 0, 0, 0, 0, 0] } = .next t :=
  ⟨⟨by decide, ⟨by decide, by decide, by decide, by decide, by decide, by decide, by decide, rfl⟩, rfl⟩, ⟨_, rfl⟩⟩
theorem witness_ReachableStatesAreSafe : Reachable (State.resetWith cfg16 [(3, 0x00)]) := .reset _ _ (by decide)
theorem witness_OutOnlyGrowsByKnownCommands : ∃ t, exec .writeRam (ready cfg16 []) = .next t := ⟨_, rfl⟩
theorem witness_InstructionsKeepTheParameters : ∃ t, exec .init (launch cfg16 [.low]) = .next t := ⟨_, rfl⟩
theorem witness_StateIsWrittenByItsOwners : ∃ t, exec (.getpx 0 0) (ready cfg16 []) = .next t := ⟨_, rfl⟩
theorem witness_DrawingEmitsNothing : ∃ t, exec (.rect 0 0 2 2 .dark .filled) (ready cfg16 []) = .next t := ⟨_, rfl⟩
theorem witness_HardwareTimeoutIsNeverReturned : Instr.wakeup.isHostOp = true := by decide
theorem witness_ResetFramebufferIsUnobservable :
    Memory.wf [(1, 0x00)] = true ∧ Memory.within cfg16.fbBytes [(1, 0x00)] = true ∧ Memory.wf [(2, 0x33)] = true ∧
      Memory.within cfg16.fbBytes [(2, 0x33)] = true := by decide

end Sys2Proof.Tests
end

section
/-! PROOFS of the family `00_scope.md`: every state that a run from hardware reset reaches has the invariant `State.Safe`
(R4, R35). The invariant holds at reset; what the host and the environment write is not part of it; and a step from a
safe state runs one host operation, which either changes only `FB`, `RESULT` and `STATUS`, or comes to a state that
`State.Safe.protocolEnd` describes. -/

namespace Sys2Proof.Machine

/-! What a command port can hold. -/

theorem operandsOf_isHostOp (op : HostOp) (w : Word80) (payload : List Byte) :
    (operandsOf op w payload).isHostOp = true := by
  cases op <;> rfl

theorem decodeWord_isHostOp {w : Word80} {payload : List Byte} {i : Instr} (h : decodeWord w payload = .ok i) :
    i.isHostOp = true := by
  unfold decodeWord at h
  split at h
  · cases h; exact operandsOf_isHostOp _ _ _
  · exact absurd h nofun

theorem decodeAfterWord_isHostOp {w : Word80} {bytes rest : List Byte} {i : Instr}
    (h : decodeAfterWord w bytes = .legal i rest) : i.isHostOp = true := by
  unfold decodeAfterWord at h
  split at h
  · exact absurd h nofun
  · split at h
    · next hw => cases h; exact decodeWord_isHostOp hw
    · exact absurd h nofun

/-- Only the block itself sends bus commands: a host spells none of them (R73, R190). -/
theorem decode_isHostOp {bytes rest : List Byte} {i : Instr} (h : decode bytes = .legal i rest) :
    i.isHostOp = true := by
  unfold decode at h
  split at h
  · exact decodeAfterWord_isHostOp h
  · exact absurd h nofun

/-- What a fetch that meets an illegal word has done: with no transfer pending, the word is consumed from the port. -/
theorem fetch_illegal_cases {s s' : State} (h : fetch s = .illegal s') :
    ∃ why rest, decode s.port = .illegal why rest ∧ s' = s.setPort rest := by
  unfold fetch at h
  split at h
  · unfold fetchCommand at h
    split at h
    · exact absurd h nofun
    · exact absurd h nofun
    · next why rest hd => cases h; exact ⟨why, rest, hd, rfl⟩
  · unfold fetchBus at h
    split at h <;> exact absurd h nofun

/-! `MASTER_ACTIVATION` commands in a trace. -/

@[simp] theorem activations_append (c : Cfg) (es fs : List Event) :
    activations c (es ++ fs) = activations c es + activations c fs := by
  simp [activations]

/-- A transfer counts by its command byte alone: its data bytes have `DC` high. -/
@[simp] theorem activations_transferEvents (c : Cfg) (code : Byte) (data : List Byte) :
    activations c (transferEvents code data) = if code = c.cmd.masterActivation then 1 else 0 := by
  simp [activations, transferEvents, List.countP_cons, List.countP_eq_zero]

theorem activations_of_noBytes (c : Cfg) {es : List Event} (h : NoBytes es) : activations c es = 0 := by
  refine List.countP_eq_zero.2 fun e he => ?_
  have hne : e ≠ .byte .low c.cmd.masterActivation := fun heq => h _ _ (heq ▸ he)
  simpa using hne

/-- The other codes that operations send differ from that of `MASTER_ACTIVATION` (R5). -/
theorem codes_ne_masterActivation (c : Cfg) :
    c.cmd.swReset ≠ c.cmd.masterActivation ∧ c.cmd.driverOutputControl ≠ c.cmd.masterActivation ∧
      c.cmd.boosterSoftStart ≠ c.cmd.masterActivation ∧ c.cmd.writeVcom ≠ c.cmd.masterActivation ∧
      c.cmd.dummyLinePeriod ≠ c.cmd.masterActivation ∧ c.cmd.gateTime ≠ c.cmd.masterActivation ∧
      c.cmd.dataEntryMode ≠ c.cmd.masterActivation ∧ c.cmd.writeLut ≠ c.cmd.masterActivation ∧
      c.cmd.setRamXRange ≠ c.cmd.masterActivation ∧ c.cmd.setRamYRange ≠ c.cmd.masterActivation ∧
      c.cmd.setRamXCounter ≠ c.cmd.masterActivation ∧ c.cmd.setRamYCounter ≠ c.cmd.masterActivation ∧
      c.cmd.writeRam ≠ c.cmd.masterActivation ∧ c.cmd.displayUpdateControl2 ≠ c.cmd.masterActivation ∧
      c.cmd.terminateFrame ≠ c.cmd.masterActivation ∧ c.cmd.deepSleep ≠ c.cmd.masterActivation := by
  have h := c.cmd_distinct
  simp only [CmdCodes.toList, List.nodup_cons, List.mem_cons, not_or] at h
  grind

theorem dcAfter_ne_undriven (data : List Byte) : dcAfter data ≠ .undriven := by
  unfold dcAfter
  split <;> nofun

/-! The sub-sequences of the protocol operations, each as the one trace it appends. -/

/-- What the reset pulse emits (R152). -/
def resetPulseEvents (c : Cfg) : List Event :=
  [.rst .high, .delay c.tResetMs, .rst .low, .delay c.tResetMs, .rst .high, .delay c.tResetMs]

/-- What the six configuration commands of `INIT` emit (R157). -/
def configurationEvents (c : Cfg) : List Event :=
  transferEvents c.cmd.driverOutputControl c.pay.driverOutputControl ++
  transferEvents c.cmd.boosterSoftStart c.pay.boosterSoftStart ++
  transferEvents c.cmd.writeVcom c.pay.writeVcom ++
  transferEvents c.cmd.dummyLinePeriod c.pay.dummyLinePeriod ++
  transferEvents c.cmd.gateTime c.pay.gateTime ++
  transferEvents c.cmd.dataEntryMode c.pay.dataEntryMode

/-- What the four window and write-pointer commands of `REFRESH` emit (R164). -/
def windowEvents (c : Cfg) : List Event :=
  transferEvents c.cmd.setRamXRange c.pay.ramXRange ++
  transferEvents c.cmd.setRamYRange c.pay.ramYRange ++
  transferEvents c.cmd.setRamXCounter c.pay.ramXCounter ++
  transferEvents c.cmd.setRamYCounter c.pay.ramYCounter

/-- What the three activation commands of `REFRESH` emit (R164). -/
def activationEvents (c : Cfg) : List Event :=
  transferEvents c.cmd.displayUpdateControl2 c.pay.displayUpdateControl2 ++
  transferEvents c.cmd.masterActivation [] ++
  transferEvents c.cmd.terminateFrame []

theorem sendConfiguration_eq (s : State) :
    sendConfiguration s =
      { s with dc := dcAfter s.cfg.pay.dataEntryMode, out := s.out ++ configurationEvents s.cfg } := by
  simp only [sendConfiguration, sendDriverOutputControl, sendBoosterSoftStart, sendWriteVcom, sendDummyLinePeriod,
    sendGateTime, sendDataEntryMode, sendTransfer_eq, configurationEvents, List.append_assoc]

theorem sendWindow_eq (s : State) :
    sendWindow s = { s with dc := dcAfter s.cfg.pay.ramYCounter, out := s.out ++ windowEvents s.cfg } := by
  simp only [sendWindow, sendSetRamXRange, sendSetRamYRange, sendSetRamXCounter, sendSetRamYCounter, sendTransfer_eq,
    windowEvents, List.append_assoc]

theorem sendActivation_eq (s : State) :
    sendActivation s = { s with dc := dcAfter [], out := s.out ++ activationEvents s.cfg } := by
  simp only [sendActivation, sendDisplayUpdateControl2, sendMasterActivation, sendTerminateFrame, sendTransfer_eq,
    activationEvents, List.append_assoc]

@[simp] theorem activations_resetPulseEvents (c : Cfg) : activations c (resetPulseEvents c) = 0 :=
  activations_of_noBytes c fun _ _ => by simp [resetPulseEvents]

@[simp] theorem activations_configurationEvents (c : Cfg) : activations c (configurationEvents c) = 0 := by
  simp [configurationEvents, codes_ne_masterActivation]

@[simp] theorem activations_windowEvents (c : Cfg) : activations c (windowEvents c) = 0 := by
  simp [windowEvents, codes_ne_masterActivation]

/-- One refresh activates the panel once (R164, R206). -/
@[simp] theorem activations_activationEvents (c : Cfg) : activations c (activationEvents c) = 1 := by
  simp [activationEvents, codes_ne_masterActivation]

theorem lutLastOf_ne_never (t : Waveform) : lutLastOf t ≠ .never := by
  cases t <;> nofun

/-- What the reset sequence of `INIT` and `WAKEUP` can do: the line ends high, `SW_RESET` goes out last, nothing is
activated, and the wait leaves the timeout flags consistent (R152, R154, R192). -/
theorem resetSequence_cases (s : State) :
    ∃ es f k, resetSequence s =
        { s with
          rstN := .driven .high, dc := dcAfter [], out := s.out ++ es, flags := f
          busyIn := s.busyIn.drop k, pollCount := s.pollCount + k } ∧
      activations s.cfg es = 0 ∧ f.lutLast = s.flags.lutLast ∧ (f.tmoLast = true → f.tmoSticky = true) := by
  obtain ⟨es, f, k, he, hb, hl, ht, -⟩ := waitBusy_cases (resetPulse s)
  refine ⟨resetPulseEvents s.cfg ++ (es ++ transferEvents s.cfg.cmd.swReset []), f, k, ?_, ?_, hl, ht⟩
  · rw [resetSequence, he, sendSwReset, sendTransfer_eq, resetPulse_eq]
    simp only [resetPulseEvents, List.append_assoc]
  · simp [activations_of_noBytes _ hb, codes_ne_masterActivation]

/-! Single pixels. -/

theorem plot_keepsForm (c : Cfg) (k : Colour) (p : Point) : KeepsForm c fun m => Memory.plot c k m p :=
  fun _ h h' => ⟨Memory.plot_wf p h, Memory.plot_within p h'⟩

/-- A pixel reads as a colour (R25, R51). -/
theorem Memory.pixel_cases (c : Cfg) (m : Memory) (x y : Int) :
    Memory.pixel c m x y = 0x00#8 ∨ Memory.pixel c m x y = 0x01#8 := by
  rw [Memory.pixel, shift_and_one]
  split
  · exact .inr rfl
  · exact .inl rfl

/-! What keeps the invariant. -/

theorem resetWith_safe (c : Cfg) (fb : Memory) (h : fb.wf = true ∧ fb.within c.fbBytes = true) :
    (State.resetWith c fb).Safe where
  fb := h
  regs := by constructor <;> simp [State.resetWith]
  refreshes := rfl

section
variable {s : State}

/-- The invariant is about neither the port nor the BUSY pin. -/
theorem State.Safe.inputs (hs : s.Safe) (bytes : List Byte) (samples : List Level) :
    State.Safe { s with port := bytes, busyIn := samples } := by
  obtain ⟨hfb, ⟨hl, ht, hst, hr, hrst, hdc, hc, hbus⟩, href⟩ := hs
  exact ⟨hfb, ⟨hl, ht, hst, hr, hrst, hdc, hc, hbus⟩, href⟩

theorem State.Safe.setStatus (hs : s.Safe) {st : Status} (h : st ≠ .hardwareTimeout) : (s.setStatus st).Safe := by
  obtain ⟨hfb, ⟨hl, ht, -, hr, hrst, hdc, hc, hbus⟩, href⟩ := hs
  exact ⟨hfb, ⟨hl, ht, h, hr, hrst, hdc, hc, hbus⟩, href⟩

theorem State.Safe.setResult (hs : s.Safe) {b : Byte} (h : b = 0x00#8 ∨ b = 0x01#8 ∨ b = 0xFF#8) :
    (s.setResult b).Safe := by
  obtain ⟨hfb, ⟨hl, ht, hst, -, hrst, hdc, hc, hbus⟩, href⟩ := hs
  exact ⟨hfb, ⟨hl, ht, hst, h, hrst, hdc, hc, hbus⟩, href⟩

theorem State.Safe.draw (hs : s.Safe) {f : Memory → Memory} (h : KeepsForm s.cfg f) : (s.setFb (f s.fb)).Safe := by
  obtain ⟨⟨hwf, hin⟩, ⟨hl, ht, hst, hr, hrst, hdc, hc, hbus⟩, href⟩ := hs
  exact ⟨h _ hwf hin, ⟨hl, ht, hst, hr, hrst, hdc, hc, hbus⟩, href⟩

/-- A busy wait keeps the invariant, whether it ends on a low sample or times out (R154). -/
theorem State.Safe.waitBusy (hs : s.Safe) : (waitBusy s).Safe := by
  obtain ⟨hfb, ⟨hl, -, hst, hr, hrst, hdc, hc, hbus⟩, href⟩ := hs
  obtain ⟨es, f, k, he, hb, hlut, ht, -⟩ := waitBusy_cases s
  rw [he]
  exact ⟨hfb, ⟨hlut ▸ hl, ht, hst, hr, hrst, hdc, hc, hbus⟩, by simp [activations_of_noBytes _ hb, href]⟩

/-- What a safe state out of `Uninitialized` has kept from `INIT`: the reset line high and a table recorded. -/
theorem State.RegsOk.initialized (h : s.RegsOk) (hd : s.drv ≠ .uninitialized) :
    s.rstN = .driven .high ∧ s.flags.lutLast ≠ .never := by
  obtain ⟨hl, -, -, -, hrst, -⟩ := h
  exact ⟨by simpa [hd] using hrst, fun h => hd (hl.1 h)⟩

/-- What every protocol operation that runs comes to, before its last wait and its `STATUS`: the block is out of
`Uninitialized`, the pins are driven, a table is recorded, and the counter has grown by the activations sent. -/
theorem State.Safe.protocolEnd (hs : s.Safe) {m : Memory} {d : DrvState} {n : Nat} {f : Flags} {r p : Pin}
    {es : List Event} {samples : List Level} {k : Nat}
    (hm : m.wf = true ∧ m.within s.cfg.fbBytes = true) (hd : d ≠ .uninitialized)
    (hn : s.refreshCounter + activations s.cfg es = n) (hl : f.lutLast ≠ .never)
    (ht : f.tmoLast = true → f.tmoSticky = true) (hr : r = .driven .high) (hp : p ≠ .undriven) :
    State.Safe
      { s with
        fb := m, drv := d, refreshCounter := n, flags := f, rstN := r, dc := p, out := s.out ++ es
        busyIn := samples, pollCount := k } where
  fb := hm
  regs :=
    { lutLast := by simp [hl, hd]
      timeouts := ht
      status := hs.regs.status
      result := hs.regs.result
      rstN := by simp [hr, hd]
      dc := by simp [hp, hd]
      counter := fun h => absurd h hd
      noBusRequest := hs.regs.noBusRequest }
  refreshes := by
    have := hs.refreshes
    simp only [activations_append]
    omega

end

/-! Each host operation keeps the invariant. -/

/-- An outcome whose next state, if there is one, has the invariant. -/
def SafeNext (r : Result) : Prop := ∀ t, r = .next t → t.Safe

section
variable {s : State}

theorem safeNext_next (hs : s.Safe) : SafeNext (.next s) := by
  rintro t ⟨⟩
  exact hs

theorem safeNext_raise (hs : s.Safe) {st : Status} (h : st ≠ .hardwareTimeout) : SafeNext (raise st s) :=
  safeNext_next (hs.setStatus h)

theorem safeNext_complete (hs : s.Safe) : SafeNext (complete s) :=
  safeNext_next (hs.setStatus nofun)

theorem safeNext_gateFramebuffer (hs : s.Safe) {k : State → Result} (hk : SafeNext (k s)) :
    SafeNext (gateFramebuffer s k) := by
  unfold gateFramebuffer
  split
  · exact safeNext_raise hs nofun
  · exact hk

/-- Every drawing operation that runs is of this shape. -/
theorem safeNext_draw (hs : s.Safe) {f : Memory → Memory} (h : KeepsForm s.cfg f) :
    SafeNext (complete (s.setFb (f s.fb))) :=
  safeNext_complete (hs.draw h)

theorem execClear_safe (hs : s.Safe) : SafeNext (execClear s) := by
  refine safeNext_gateFramebuffer hs ?_
  exact safeNext_draw hs (fillLight_keepsForm s.cfg)

theorem execLine_safe (hs : s.Safe) (x0 y0 x1 y1 : Int) (k : Colour) : SafeNext (execLine x0 y0 x1 y1 k s) := by
  refine safeNext_gateFramebuffer hs ?_
  exact safeNext_draw hs (drawLine_keepsForm s.cfg x0 y0 x1 y1 k)

theorem execRect_safe (hs : s.Safe) (x y : Int) (w h : Nat) (k : Colour) (mode : FillMode) :
    SafeNext (execRect x y w h k mode s) := by
  refine safeNext_gateFramebuffer hs ?_
  exact safeNext_draw hs (drawRect_keepsForm s.cfg x y w h k mode)

theorem execSetpx_safe (hs : s.Safe) (x y : Int) (k : Colour) : SafeNext (execSetpx x y k s) := by
  refine safeNext_gateFramebuffer hs ?_
  split
  · exact safeNext_draw hs (f := fun m => Memory.plot s.cfg k m (x, y)) (plot_keepsForm s.cfg k (x, y))
  · exact safeNext_raise hs nofun

theorem execGetpx_safe (hs : s.Safe) (x y : Int) : SafeNext (execGetpx x y s) := by
  refine safeNext_gateFramebuffer hs ?_
  split
  · exact safeNext_complete (hs.setResult ((Memory.pixel_cases s.cfg s.fb x y).imp_right .inl))
  · exact safeNext_raise (hs.setResult (.inr (.inr rfl))) nofun

theorem execText_safe (hs : s.Safe) (x y : Int) (gs : Nat) (k : Colour) (bytes : List Byte) :
    SafeNext (execText x y gs k bytes s) := by
  refine safeNext_gateFramebuffer hs ?_
  split
  · exact safeNext_raise hs nofun
  · exact safeNext_draw hs (drawText_keepsForm s.cfg x y gs k bytes)

theorem execInit_safe (hs : s.Safe) : SafeNext (execInit s) := by
  unfold execInit
  split
  · next hd =>
    obtain ⟨es, f, k, he, ha, -, ht⟩ := resetSequence_cases s
    rw [he, sendConfiguration_eq, sendWriteLut, loadLut_eq]
    simp only [List.append_assoc]
    refine safeNext_complete
      (hs.protocolEnd ?_ nofun ?_ (lutLastOf_ne_never .fullUpdate) ht rfl (dcAfter_ne_undriven _))
    · exact fillLight_keepsForm s.cfg _ hs.fb.1 hs.fb.2
    · simp [hs.regs.counter hd, ha, codes_ne_masterActivation]
  · exact safeNext_raise hs nofun

theorem execRefresh_safe (hs : s.Safe) (mode : RefreshMode) : SafeNext (execRefresh mode s) := by
  unfold execRefresh
  split
  · next hd =>
    have hd' : s.drv ≠ .uninitialized := by rw [hd]; nofun
    obtain ⟨hrst, -⟩ := hs.regs.initialized hd'
    simp only [sendWindow_eq, sendWriteRam, sendTransfer_eq, sendWriteLut, loadLut_eq, sendActivation_eq,
      List.append_assoc]
    refine safeNext_complete (State.Safe.waitBusy ?_)
    refine hs.protocolEnd hs.fb hd' ?_ (lutLastOf_ne_never _) hs.regs.timeouts hrst (dcAfter_ne_undriven [])
    simp [codes_ne_masterActivation]
  · exact safeNext_raise hs nofun

theorem execSleep_safe (hs : s.Safe) : SafeNext (execSleep s) := by
  unfold execSleep
  split
  · next hd =>
    obtain ⟨hrst, hlut⟩ := hs.regs.initialized (by rw [hd]; nofun)
    rw [sendDeepSleep, sendTransfer_eq]
    refine safeNext_complete (hs.protocolEnd hs.fb nofun ?_ hlut hs.regs.timeouts hrst (dcAfter_ne_undriven _))
    simp [codes_ne_masterActivation]
  · exact safeNext_raise hs nofun

theorem execWakeup_safe (hs : s.Safe) : SafeNext (execWakeup s) := by
  unfold execWakeup
  split
  · next hd =>
    obtain ⟨-, hlut⟩ := hs.regs.initialized (by rw [hd]; nofun)
    obtain ⟨es, f, k, he, ha, hl, ht⟩ := resetSequence_cases s
    rw [he]
    refine safeNext_complete (hs.protocolEnd hs.fb nofun ?_ (hl ▸ hlut) ht rfl (dcAfter_ne_undriven []))
    rw [ha]
    rfl
  · exact safeNext_raise hs nofun

theorem exec_hostOp_safe (hs : s.Safe) {i : Instr} (hi : i.isHostOp = true) : SafeNext (exec i s) := by
  cases i with
  | clear => exact execClear_safe hs
  | setpx x y k => exact execSetpx_safe hs x y k
  | getpx x y => exact execGetpx_safe hs x y
  | line x0 y0 x1 y1 k => exact execLine_safe hs x0 y0 x1 y1 k
  | rect x y w h k m => exact execRect_safe hs x y w h k m
  | text x y gs k bytes => exact execText_safe hs x y gs k bytes
  | init => exact execInit_safe hs
  | refresh mode => exact execRefresh_safe hs mode
  | sleep => exact execSleep_safe hs
  | wakeup => exact execWakeup_safe hs
  | _ => exact absurd hi Bool.false_ne_true

/-- A safe state has no bus transfer pending, so its step waits, rejects a word or runs a host operation. -/
theorem step_safe {t : State} (hs : s.Safe) (h : step s = .next t) : t.Safe := by
  obtain ⟨-, rfl⟩ | ⟨i, s', hf, he⟩ | ⟨s', hf, rfl⟩ := step_cases h
  case inl => exact hs
  case inr.inl =>
    obtain ⟨-, rest, hdec, rfl⟩ | ⟨hbus, -⟩ := fetch_run_cases hf
    · exact exec_hostOp_safe (hs.inputs rest s.busyIn) (decode_isHostOp hdec) t he
    · exact absurd hs.regs.noBusRequest hbus
  case inr.inr =>
    obtain ⟨-, rest, -, rfl⟩ := fetch_illegal_cases hf
    exact (hs.inputs rest s.busyIn).setStatus nofun

end

/-- Settles O52, by induction on the run. -/
theorem reachableStatesAreSafe : Obligations.ReachableStatesAreSafe := by
  intro s h
  induction h with
  | reset c fb h => exact resetWith_safe c fb h
  | host s bytes _ ih => exact ih.inputs _ s.busyIn
  | environment s samples _ ih => exact ih.inputs s.port _
  | step s t _ e ih => exact step_safe ih e

end Sys2Proof.Machine
end

section
/-! PROOFS of the family `10_state.md`: what each instruction does to the registers. One relation, `Effect`, says what
every instruction can leave behind (`exec_leaves`); the statements about single registers read it off. That the contents
of `FB` at reset never matter is a lockstep of two runs, kept by every step. -/

namespace Sys2Proof.Machine

/-! The launch state and the status registers. -/

/-- Settles O50. -/
theorem resetIsSafe : Obligations.ResetIsSafe :=
  ⟨resetWith_safe, resetWith_safe Config.machine [] ⟨rfl, rfl⟩⟩

/-- Settles O51: every step from a safe state waits, rejects a word or runs one host operation. -/
theorem stepKeepsSafe : Obligations.StepKeepsSafe :=
  fun _ _ hs h => step_safe hs h

/-- Each field of `FLAGS` reads back from its own bits, and the bits above are zero (R26). -/
theorem Flags.toByte_fields (f : Flags) :
    f.toByte.getLsbD 0 = f.tmoLast ∧ f.toByte.getLsbD 1 = f.tmoSticky ∧
      f.toByte.extractLsb' 2 2 = f.lutLast.code.setWidth 2 ∧ f.toByte.extractLsb' 4 4 = 0#4 := by
  obtain ⟨last, sticky, lut⟩ := f
  cases lut <;> cases last <;> cases sticky <;> decide

/-- Settles O58. -/
theorem statusRegistersReadAsLaidOut : Obligations.StatusRegistersReadAsLaidOut := by
  refine ⟨fun s => ⟨?status, rfl, rfl, ?driverState, rfl⟩, fun f => ?flags⟩
  case status =>
    rw [readSR]
    cases s.status <;> rfl
  case driverState =>
    rw [readSR]
    cases s.drv <;> rfl
  case flags =>
    obtain ⟨hlast, hsticky, hlut, hzero⟩ := f.toByte_fields
    refine ⟨hlast, hsticky, ?_, hzero⟩
    rw [hlut]
    cases f.lutLast <;> rfl

/-! What a step finds to do. -/

section
variable {s : State}

theorem step_of_incomplete (hb : s.busRequest = []) (h : decode s.port = .incomplete) : step s = .next s := by
  simp [step, fetch, hb, fetchCommand, h]

theorem step_of_legal {i : Instr} {rest : List Byte} (hb : s.busRequest = []) (h : decode s.port = .legal i rest) :
    step s = exec i (s.setPort rest) := by
  simp [step, fetch, hb, fetchCommand, h]

theorem step_of_illegal {why : IllegalWord} {rest : List Byte} (hb : s.busRequest = [])
    (h : decode s.port = .illegal why rest) : step s = raise .invalidParameter (s.setPort rest) := by
  simp [step, fetch, hb, fetchCommand, h, illegalCommand]

theorem step_of_busRequest {i : Instr} (hb : s.busRequest ≠ []) (h : decodeBus s.cfg s.busRequest = some i) :
    step s = exec i (s.setBusRequest []) := by
  obtain ⟨code, data, hreq⟩ := List.exists_cons_of_ne_nil hb
  have hf : fetch s = fetchBus s := by simp [fetch, hreq]
  simp [step, hf, fetchBus, h]

end

/-- Settles O7. -/
theorem stepRunsTheDecodedInstruction : Obligations.StepRunsTheDecodedInstruction :=
  ⟨fun _ _ _ hb h => step_of_legal hb h, fun _ _ hb h => step_of_busRequest hb h, fun _ hb h => step_of_incomplete hb h⟩

/-- Settles O49: with an empty port the first step waits. -/
theorem resetLeavesTheLaunchState : Obligations.ResetLeavesTheLaunchState := by
  intro c fb
  have hwait : step (State.resetWith c fb) = .next (State.resetWith c fb) := step_of_incomplete rfl rfl
  have hflags : (State.resetWith c fb).flags.toByte = 0x00#8 := by
    simp [State.resetWith, Flags.toByte, LutLast.code]
  exact ⟨rfl, rfl, rfl, rfl, hflags, rfl, rfl, rfl, rfl, rfl, hwait⟩

/-! Command bytes in a trace. -/

/-- Every command byte of a trace is one of the seventeen codes (R190, R209). -/
def KnownCommands (c : Cfg) (es : List Event) : Prop := ∀ b, Event.byte .low b ∈ es → b ∈ c.cmd.toList

@[simp] theorem knownCommands_append {c : Cfg} {es fs : List Event} :
    KnownCommands c (es ++ fs) ↔ KnownCommands c es ∧ KnownCommands c fs := by
  simp only [KnownCommands, List.mem_append, or_imp, forall_and]

@[simp] theorem knownCommands_transferEvents {c : Cfg} {code : Byte} {data : List Byte} :
    KnownCommands c (transferEvents code data) ↔ code ∈ c.cmd.toList := by
  simp [KnownCommands]

theorem knownCommands_of_noBytes (c : Cfg) {es : List Event} (h : NoBytes es) : KnownCommands c es :=
  fun b hb => absurd hb (h .low b)

@[simp] theorem knownCommands_resetPulseEvents (c : Cfg) : KnownCommands c (resetPulseEvents c) :=
  knownCommands_of_noBytes c fun _ _ => by simp [resetPulseEvents]

@[simp] theorem knownCommands_configurationEvents (c : Cfg) : KnownCommands c (configurationEvents c) := by
  simp [configurationEvents, CmdCodes.toList]

@[simp] theorem knownCommands_windowEvents (c : Cfg) : KnownCommands c (windowEvents c) := by
  simp [windowEvents, CmdCodes.toList]

@[simp] theorem knownCommands_activationEvents (c : Cfg) : KnownCommands c (activationEvents c) := by
  simp [activationEvents, CmdCodes.toList]

/-- The reset sequence of `INIT` and `WAKEUP` emits known commands only and never clears `TMO_STICKY` (R26, R154). -/
theorem resetSequence_effect (s : State) :
    ∃ es f k, resetSequence s =
        { s with
          rstN := .driven .high, dc := dcAfter [], out := s.out ++ es, flags := f
          busyIn := s.busyIn.drop k, pollCount := s.pollCount + k } ∧
      KnownCommands s.cfg es ∧ f.lutLast = s.flags.lutLast ∧ (s.flags.tmoSticky = true → f.tmoSticky = true) := by
  obtain ⟨es, f, k, he, hb, hl, -, hsticky, -⟩ := waitBusy_cases (resetPulse s)
  refine ⟨resetPulseEvents s.cfg ++ (es ++ transferEvents s.cfg.cmd.swReset []), f, k, ?_, ?_, hl, hsticky⟩
  · rw [resetSequence, he, sendSwReset, sendTransfer_eq, resetPulse_eq]
    simp only [resetPulseEvents, List.append_assoc]
  · simp [knownCommands_of_noBytes _ hb, CmdCodes.toList]

/-! What an instruction can do. -/

/-- The one driver state in which a protocol operation runs (R156). -/
def runsIn : Instr → Option DrvState
  | .init => some .uninitialized
  | .refresh _ => some .ready
  | .sleep => some .ready
  | .wakeup => some .sleeping
  | _ => none

/-- The operations that draw (R101, R102, R122, R126, R131). -/
def draws : Instr → Bool
  | .clear | .setpx .. | .line .. | .rect .. | .text .. => true
  | _ => false

/-- `Effect s i t`: the instruction `i` can take the state `s` to `t`. Every register that a case does not name is as it
was. -/
inductive Effect (s : State) : Instr → State → Prop where
  /-- Rejected, by its gate or for its operands (R100, R102, R132, R159, R161). -/
  | refused {i : Instr} (st : Status) (host : i.isHostOp = true) (hst : st ≠ .hardwareTimeout)
      (hd : runsIn i ≠ some s.drv) : Effect s i { s with status := st }
  | draw {i : Instr} (m : Memory) (hi : draws i = true) : Effect s i { s with fb := m, status := .ok }
  | getpx (x y : Int) (b : Byte) (st : Status) (hst : st ≠ .hardwareTimeout) :
      Effect s (.getpx x y) { s with result := b, status := st }
  | init (m : Memory) (es : List Event) (f : Flags) (p : Pin) (k : Nat) (hd : s.drv = .uninitialized)
      (hes : KnownCommands s.cfg es) (hsticky : s.flags.tmoSticky = true → f.tmoSticky = true) :
      Effect s .init
        { s with
          fb := m, drv := .ready, refreshCounter := 0, status := .ok, flags := f, rstN := .driven .high, dc := p
          out := s.out ++ es, busyIn := s.busyIn.drop k, pollCount := s.pollCount + k }
  | refresh (mode : RefreshMode) (es : List Event) (f : Flags) (p : Pin) (k : Nat) (hd : s.drv = .ready)
      (hes : KnownCommands s.cfg es) (hsticky : s.flags.tmoSticky = true → f.tmoSticky = true) :
      Effect s (.refresh mode)
        { s with
          refreshCounter := s.refreshCounter + 1, status := .ok, flags := f, dc := p
          out := s.out ++ es, busyIn := s.busyIn.drop k, pollCount := s.pollCount + k }
  | sleep (es : List Event) (p : Pin) (hd : s.drv = .ready) (hes : KnownCommands s.cfg es) :
      Effect s .sleep { s with drv := .sleeping, status := .ok, dc := p, out := s.out ++ es }
  | wakeup (es : List Event) (f : Flags) (p : Pin) (k : Nat) (hd : s.drv = .sleeping)
      (hes : KnownCommands s.cfg es) (hlut : f.lutLast = s.flags.lutLast)
      (hsticky : s.flags.tmoSticky = true → f.tmoSticky = true) :
      Effect s .wakeup
        { s with
          drv := .ready, status := .ok, flags := f, rstN := .driven .high, dc := p
          out := s.out ++ es, busyIn := s.busyIn.drop k, pollCount := s.pollCount + k }
  | transfer {i : Instr} (es : List Event) (p : Pin) (bus : i.isHostOp = false) (hes : KnownCommands s.cfg es) :
      Effect s i { s with dc := p, out := s.out ++ es }
  | writeLut (w : Waveform) (es : List Event) (p : Pin) (hes : KnownCommands s.cfg es) :
      Effect s (.writeLut w) { s with dc := p, out := s.out ++ es, flags := s.flags.lutSent w }

/-- An outcome that is a next state, one that `i` can leave from `s`. -/
def Leaves (s : State) (i : Instr) (r : Result) : Prop := ∃ t, r = .next t ∧ Effect s i t

section
variable {s : State} {i : Instr}

theorem leaves_of_effect {t : State} (h : Effect s i t) : Leaves s i (.next t) := ⟨t, rfl, h⟩

/-- The operations behind the gate of R100 run in no driver state of their own. -/
theorem runsIn_of_draws (h : draws i = true) : runsIn i = none := by
  cases i with
  | init | sleep | wakeup => exact absurd h Bool.false_ne_true
  | refresh mode => exact absurd h Bool.false_ne_true
  | _ => rfl

theorem runsIn_of_bus (h : i.isHostOp = false) : runsIn i = none := by
  cases i with
  | init | sleep | wakeup => exact absurd h.symm Bool.false_ne_true
  | refresh mode => exact absurd h.symm Bool.false_ne_true
  | _ => rfl

theorem leaves_raise {st : Status} (host : i.isHostOp = true) (hst : st ≠ .hardwareTimeout)
    (hd : runsIn i ≠ some s.drv) : Leaves s i (raise st s) :=
  leaves_of_effect (.refused st host hst hd)

theorem leaves_gate {k : State → Result} (host : i.isHostOp = true) (hd : runsIn i ≠ some s.drv)
    (hk : Leaves s i (k s)) : Leaves s i (gateFramebuffer s k) := by
  unfold gateFramebuffer
  split
  · exact leaves_raise host nofun hd
  · exact hk

theorem leaves_draw (m : Memory) (hi : draws i = true) : Leaves s i (complete (s.setFb m)) :=
  leaves_of_effect (.draw m hi)

/-- A bus command alone is one transfer (R83, R190). -/
theorem leaves_transfer {code : Byte} {data : List Byte} (bus : i.isHostOp = false) (hc : code ∈ s.cfg.cmd.toList) :
    Leaves s i (.next (sendTransfer code data s)) := by
  rw [sendTransfer_eq]
  exact leaves_of_effect (.transfer _ _ bus (knownCommands_transferEvents.2 hc))

end

section
variable (s : State)

theorem execClear_leaves : Leaves s .clear (execClear s) := by
  refine leaves_gate rfl nofun ?_
  exact leaves_draw _ rfl

theorem execLine_leaves (x0 y0 x1 y1 : Int) (k : Colour) :
    Leaves s (.line x0 y0 x1 y1 k) (execLine x0 y0 x1 y1 k s) := by
  refine leaves_gate rfl nofun ?_
  exact leaves_draw _ rfl

theorem execRect_leaves (x y : Int) (w h : Nat) (k : Colour) (m : FillMode) :
    Leaves s (.rect x y w h k m) (execRect x y w h k m s) := by
  refine leaves_gate rfl nofun ?_
  exact leaves_draw _ rfl

theorem execSetpx_leaves (x y : Int) (k : Colour) : Leaves s (.setpx x y k) (execSetpx x y k s) := by
  refine leaves_gate rfl nofun ?_
  split
  · exact leaves_draw _ rfl
  · exact leaves_raise rfl nofun nofun

theorem execText_leaves (x y : Int) (gs : Nat) (k : Colour) (bytes : List Byte) :
    Leaves s (.text x y gs k bytes) (execText x y gs k bytes s) := by
  refine leaves_gate rfl nofun ?_
  split
  · exact leaves_raise rfl nofun nofun
  · exact leaves_draw _ rfl

theorem execGetpx_leaves (x y : Int) : Leaves s (.getpx x y) (execGetpx x y s) := by
  refine leaves_gate rfl nofun ?_
  split
  · exact leaves_of_effect (.getpx x y _ .ok nofun)
  · exact leaves_of_effect (.getpx x y _ .invalidParameter nofun)

theorem execInit_leaves : Leaves s .init (execInit s) := by
  unfold execInit
  split
  · next hd =>
    obtain ⟨es, f, k, he, hes, -, hsticky⟩ := resetSequence_effect s
    rw [he, sendConfiguration_eq, sendWriteLut, loadLut_eq]
    simp only [List.append_assoc]
    exact leaves_of_effect (.init _ _ _ _ k hd (by simp [hes, CmdCodes.toList]) hsticky)
  · next hd => exact leaves_raise rfl nofun fun h => hd (Option.some.inj h).symm

theorem execRefresh_leaves (mode : RefreshMode) : Leaves s (.refresh mode) (execRefresh mode s) := by
  unfold execRefresh
  split
  · next hd =>
    simp only [sendWindow_eq, sendWriteRam, sendTransfer_eq, sendWriteLut, loadLut_eq, sendActivation_eq,
      List.append_assoc]
    obtain ⟨es, f, k, he, hb, -, -, hsticky, -⟩ := waitBusy_cases _
    rw [he]
    simp only [List.append_assoc]
    exact leaves_of_effect
      (.refresh mode _ _ _ k hd (by simp [knownCommands_of_noBytes _ hb, CmdCodes.toList]) hsticky)
  · next hd => exact leaves_raise rfl nofun fun h => hd (Option.some.inj h).symm

theorem execSleep_leaves : Leaves s .sleep (execSleep s) := by
  unfold execSleep
  split
  · next hd =>
    rw [sendDeepSleep, sendTransfer_eq]
    exact leaves_of_effect (.sleep _ _ hd (by simp [CmdCodes.toList]))
  · next hd => exact leaves_raise rfl nofun fun h => hd (Option.some.inj h).symm

theorem execWakeup_leaves : Leaves s .wakeup (execWakeup s) := by
  unfold execWakeup
  split
  · next hd =>
    obtain ⟨es, f, k, he, hes, hlut, hsticky⟩ := resetSequence_effect s
    rw [he]
    exact leaves_of_effect (.wakeup es f _ k hd hes hlut hsticky)
  · next hd => exact leaves_raise rfl nofun fun h => hd (Option.some.inj h).symm

theorem execWriteLut_leaves (w : Waveform) : Leaves s (.writeLut w) (execWriteLut w s) := by
  rw [execWriteLut, sendWriteLut, loadLut_eq]
  exact leaves_of_effect (.writeLut w _ _ (by simp [CmdCodes.toList]))

/-- Every instruction completes, with an effect of its own kind. -/
theorem exec_leaves (i : Instr) : Leaves s i (exec i s) := by
  cases i with
  | clear => exact execClear_leaves s
  | setpx x y k => exact execSetpx_leaves s x y k
  | getpx x y => exact execGetpx_leaves s x y
  | line x0 y0 x1 y1 k => exact execLine_leaves s x0 y0 x1 y1 k
  | rect x y w h k m => exact execRect_leaves s x y w h k m
  | text x y gs k bytes => exact execText_leaves s x y gs k bytes
  | init => exact execInit_leaves s
  | refresh mode => exact execRefresh_leaves s mode
  | sleep => exact execSleep_leaves s
  | wakeup => exact execWakeup_leaves s
  | writeLut w => exact execWriteLut_leaves s w
  | _ => exact leaves_transfer rfl (by simp [CmdCodes.toList])

end

theorem effect_of_exec {i : Instr} {s t : State} (h : exec i s = .next t) : Effect s i t := by
  obtain ⟨u, hu, e⟩ := exec_leaves s i
  cases hu.symm.trans h
  exact e

/-! Registers that an effect leaves alone. -/

namespace Effect

variable {s t : State} {i : Instr}

theorem parameters (e : Effect s i t) : t.cfg = s.cfg ∧ t.port = s.port ∧ t.busRequest = s.busRequest := by
  cases e <;> exact ⟨rfl, rfl, rfl⟩

/-- Only a protocol operation issued in its own state moves the driver state or the counter (R28, R156). -/
theorem unmoved (e : Effect s i t) (h : runsIn i ≠ some s.drv) :
    t.drv = s.drv ∧ t.refreshCounter = s.refreshCounter := by
  cases e with
  | init _ _ _ _ _ hd => exact absurd (congrArg some hd.symm) h
  | refresh _ _ _ _ _ hd => exact absurd (congrArg some hd.symm) h
  | sleep _ _ hd => exact absurd (congrArg some hd.symm) h
  | wakeup _ _ _ _ hd => exact absurd (congrArg some hd.symm) h
  | _ => exact ⟨rfl, rfl⟩

/-- What a protocol operation issued in its own state does to the driver state and the counter (R28, R156). -/
theorem moved (e : Effect s i t) (h : runsIn i = some s.drv) :
    (i = .init ∧ s.drv = .uninitialized ∧ t.drv = .ready ∧ t.refreshCounter = 0) ∨
      ((∃ mode, i = .refresh mode) ∧ s.drv = .ready ∧ t.drv = .ready ∧ t.refreshCounter = s.refreshCounter + 1) ∨
      (i = .sleep ∧ s.drv = .ready ∧ t.drv = .sleeping ∧ t.refreshCounter = s.refreshCounter) ∨
      (i = .wakeup ∧ s.drv = .sleeping ∧ t.drv = .ready ∧ t.refreshCounter = s.refreshCounter) := by
  cases e with
  | init _ _ _ _ _ hd => exact .inl ⟨rfl, hd, rfl, rfl⟩
  | refresh mode _ _ _ _ hd => exact .inr (.inl ⟨⟨mode, rfl⟩, hd, hd, rfl⟩)
  | sleep _ _ hd => exact .inr (.inr (.inl ⟨rfl, hd, rfl, rfl⟩))
  | wakeup _ _ _ _ hd => exact .inr (.inr (.inr ⟨rfl, hd, rfl, rfl⟩))
  | refused _ _ _ hd => exact absurd h hd
  | draw _ hi => rw [runsIn_of_draws hi] at h; exact absurd h nofun
  | getpx => exact absurd h nofun
  | transfer _ _ bus => rw [runsIn_of_bus bus] at h; exact absurd h nofun
  | writeLut => exact absurd h nofun

theorem out_append (e : Effect s i t) : ∃ es, t.out = s.out ++ es ∧ KnownCommands s.cfg es := by
  have hnone : ∃ es, s.out = s.out ++ es ∧ KnownCommands s.cfg es := ⟨[], (List.append_nil _).symm, nofun⟩
  cases e with
  | refused | draw | getpx => exact hnone
  | init _ es _ _ _ _ hes => exact ⟨es, rfl, hes⟩
  | refresh _ es _ _ _ _ hes => exact ⟨es, rfl, hes⟩
  | sleep es _ _ hes => exact ⟨es, rfl, hes⟩
  | wakeup es _ _ _ _ hes => exact ⟨es, rfl, hes⟩
  | transfer es _ _ hes => exact ⟨es, rfl, hes⟩
  | writeLut _ es _ hes => exact ⟨es, rfl, hes⟩

theorem status_ne_hardwareTimeout (e : Effect s i t) (host : i.isHostOp = true) : t.status ≠ .hardwareTimeout := by
  cases e with
  | refused _ _ hst => exact hst
  | getpx _ _ _ _ hst => exact hst
  | transfer _ _ bus => exact absurd (host.symm.trans bus) nofun
  | writeLut => exact absurd host nofun
  | _ => nofun

theorem tmoSticky_kept (e : Effect s i t) (h : s.flags.tmoSticky = true) : t.flags.tmoSticky = true := by
  cases e with
  | init _ _ _ _ _ _ _ hsticky => exact hsticky h
  | refresh _ _ _ _ _ _ _ hsticky => exact hsticky h
  | wakeup _ _ _ _ _ _ _ hsticky => exact hsticky h
  | _ => exact h

theorem fb_owner (e : Effect s i t) : draws i = true ∨ i = .init ∨ t.fb = s.fb := by
  cases e with
  | draw _ hi => exact .inl hi
  | init => exact .inr (.inl rfl)
  | _ => exact .inr (.inr rfl)

theorem result_owner (e : Effect s i t) : (∃ x y, i = .getpx x y) ∨ t.result = s.result := by
  cases e with
  | getpx x y => exact .inl ⟨x, y, rfl⟩
  | _ => exact .inr rfl

theorem lutLast_owner (e : Effect s i t) :
    i = .init ∨ (∃ mode, i = .refresh mode) ∨ (∃ w, i = .writeLut w) ∨ t.flags.lutLast = s.flags.lutLast := by
  cases e with
  | init => exact .inl rfl
  | refresh mode => exact .inr (.inl ⟨mode, rfl⟩)
  | writeLut w => exact .inr (.inr (.inl ⟨w, rfl⟩))
  | wakeup _ _ _ _ _ _ hlut => exact .inr (.inr (.inr hlut))
  | _ => exact .inr (.inr (.inr rfl))

theorem timeouts_owner (e : Effect s i t) :
    i = .init ∨ (∃ mode, i = .refresh mode) ∨ i = .wakeup ∨
      (t.flags.tmoLast = s.flags.tmoLast ∧ t.flags.tmoSticky = s.flags.tmoSticky) := by
  cases e with
  | init => exact .inl rfl
  | refresh mode => exact .inr (.inl ⟨mode, rfl⟩)
  | wakeup => exact .inr (.inr (.inl rfl))
  | _ => exact .inr (.inr (.inr ⟨rfl, rfl⟩))

theorem rstN_owner (e : Effect s i t) : i = .init ∨ i = .wakeup ∨ t.rstN = s.rstN := by
  cases e with
  | init => exact .inl rfl
  | wakeup => exact .inr (.inl rfl)
  | _ => exact .inr (.inr rfl)

/-- `Uninitialized` is left once and for all (R156). -/
theorem initialized (e : Effect s i t) (h : s.drv ≠ .uninitialized) : t.drv ≠ .uninitialized := by
  cases e with
  | init | sleep | wakeup => nofun
  | _ => exact h

end Effect

/-- The drawing operations by name. -/
theorem draws_cases {i : Instr} (h : draws i = true) :
    i = .clear ∨ (∃ x y k, i = .setpx x y k) ∨ (∃ x0 y0 x1 y1 k, i = .line x0 y0 x1 y1 k) ∨
      (∃ x y w h k m, i = .rect x y w h k m) ∨ (∃ x y gs k bytes, i = .text x y gs k bytes) := by
  unfold draws at h
  split at h
  · exact .inl rfl
  · exact .inr (.inl ⟨_, _, _, rfl⟩)
  · exact .inr (.inr (.inl ⟨_, _, _, _, _, rfl⟩))
  · exact .inr (.inr (.inr (.inl ⟨_, _, _, _, _, _, rfl⟩)))
  · exact .inr (.inr (.inr (.inr ⟨_, _, _, _, _, rfl⟩)))
  · exact absurd h nofun

/-! The statements about single registers. -/

/-- Settles O41. -/
theorem driverStateFollowsTheTable : Obligations.DriverStateFollowsTheTable := by
  intro i s t h
  have e := effect_of_exec h
  by_cases hm : runsIn i = some s.drv
  · obtain ⟨rfl, hd, ht, -⟩ | ⟨⟨mode, rfl⟩, hd, ht, -⟩ | ⟨rfl, hd, ht, -⟩ | ⟨rfl, hd, ht, -⟩ := e.moved hm <;>
      simp [hd, ht]
  · have hne {j : Instr} {d : DrvState} (hj : runsIn j = some d) : ¬ (i = j ∧ s.drv = d) := by
      rintro ⟨rfl, rfl⟩
      exact hm hj
    rw [(e.unmoved hm).1, if_neg (hne rfl), if_neg (hne rfl), if_neg (hne rfl)]

/-- Settles O42. -/
theorem counterCountsRefreshes : Obligations.CounterCountsRefreshes := by
  refine ⟨fun _ _ => rfl, fun i s t h => ?_⟩
  have e := effect_of_exec h
  by_cases hm : runsIn i = some s.drv
  · obtain ⟨rfl, hd, -, ht⟩ | ⟨⟨mode, rfl⟩, hd, -, ht⟩ | ⟨rfl, hd, -, ht⟩ | ⟨rfl, hd, -, ht⟩ := e.moved hm <;>
      simp [hd, ht]
  · rw [(e.unmoved hm).2]
    cases i with
    | refresh mode => exact (if_neg fun hd => hm (congrArg some hd.symm)).symm
    | init => exact (if_neg fun hd => hm (congrArg some hd.symm)).symm
    | _ => rfl

/-- Settles O53. -/
theorem outOnlyGrowsByKnownCommands : Obligations.OutOnlyGrowsByKnownCommands :=
  fun _ _ _ h => (effect_of_exec h).out_append

/-- Settles O54. -/
theorem instructionsKeepTheParameters : Obligations.InstructionsKeepTheParameters :=
  fun _ _ _ h => (effect_of_exec h).parameters

/-- Settles O55. -/
theorem stateIsWrittenByItsOwners : Obligations.StateIsWrittenByItsOwners := by
  intro i s t h
  have e := effect_of_exec h
  refine ⟨?fb, e.result_owner, e.lutLast_owner, e.timeouts_owner, e.tmoSticky_kept, e.rstN_owner⟩
  obtain hi | rfl | hfb := e.fb_owner
  · exact .inl ((draws_cases hi).imp_right (.imp_right (.imp_right (.imp_right .inl))))
  · simp
  · exact .inr hfb

/-- Settles O57. -/
theorem hardwareTimeoutIsNeverReturned : Obligations.HardwareTimeoutIsNeverReturned := by
  intro i s host
  obtain ⟨t, ht, e⟩ := exec_leaves s i
  exact ⟨t, ht, e.status_ne_hardwareTimeout host⟩

/-! Two runs from launch states that differ in the framebuffer. -/

section
variable (m : Memory) (s : State)

theorem waitLoop_setFb (n : Nat) : waitLoop n (s.setFb m) = (waitLoop n s).setFb m := by
  induction n generalizing s with
  | zero => rfl
  | succ n ih =>
    have hbusy : (s.setFb m).busyAt 0 = s.busyAt 0 := rfl
    cases h : s.busyAt 0 with
    | low => simp only [waitLoop, hbusy, h]; rfl
    | high =>
      simp only [waitLoop, hbusy, h]
      exact ih ((poll s).emit [.delay s.cfg.tPollMs])

/-- The reset sequence neither reads nor writes `FB`. -/
theorem resetSequence_setFb : resetSequence (s.setFb m) = (resetSequence s).setFb m := by
  have hwait : waitBusy (resetPulse (s.setFb m)) = (waitBusy (resetPulse s)).setFb m :=
    waitLoop_setFb m (resetPulse s) _
  rw [resetSequence, hwait]
  rfl

end

/-- `INIT` fills `FB` without reading it, so its contents before leave no trace (R157). -/
theorem exec_init_setFb {s : State} {m : Memory} (hd : s.drv = .uninitialized) (hs : s.FbOk)
    (hm : m.wf = true ∧ m.within s.cfg.fbBytes = true) : exec .init (s.setFb m) = exec .init s := by
  obtain ⟨es, f, k, he, -⟩ := resetSequence_cases s
  have hfill (m' : Memory) (h : m'.wf = true ∧ m'.within s.cfg.fbBytes = true) :
      Memory.fillLight s.cfg.fbBytes m' = [] := Memory.fillLight_eq_nil h.1 h.2
  rw [exec, exec, execInit, execInit, if_pos hd, if_pos (show (s.setFb m).drv = _ from hd), resetSequence_setFb, he]
  simp only [sendConfiguration_eq, sendWriteLut, loadLut_eq, State.setFb, hfill _ hs, hfill _ hm]

/-- Before `INIT` every other operation is refused, and reads nothing (R100, R161). -/
theorem exec_uninitialized {s : State} {i : Instr} (hd : s.drv = .uninitialized) (host : i.isHostOp = true)
    (hi : i ≠ .init) : exec i s = raise .notInitialized s := by
  cases i with
  | clear => rw [exec, execClear, gateFramebuffer_uninitialized hd]
  | setpx x y k => rw [exec, execSetpx, gateFramebuffer_uninitialized hd]
  | getpx x y => rw [exec, execGetpx, gateFramebuffer_uninitialized hd]
  | line x0 y0 x1 y1 k => rw [exec, execLine, gateFramebuffer_uninitialized hd]
  | rect x y w h k m => rw [exec, execRect, gateFramebuffer_uninitialized hd]
  | text x y gs k bytes => rw [exec, execText, gateFramebuffer_uninitialized hd]
  | init => exact absurd rfl hi
  | refresh mode => exact if_neg (by rw [hd]; nofun)
  | sleep => exact if_neg (by rw [hd]; nofun)
  | wakeup => exact if_neg (by rw [hd]; nofun)
  | _ => exact absurd host Bool.false_ne_true

theorem exec_init_uninitialized {s : State} (hd : s.drv = .uninitialized) :
    ∃ t, exec .init s = .next t ∧ t.drv = .ready ∧ t.cfg = s.cfg ∧ t.busRequest = s.busRequest := by
  obtain ⟨t, ht, e⟩ := exec_leaves s .init
  obtain ⟨hcfg, -, hbus⟩ := e.parameters
  obtain ⟨-, -, hdrv, -⟩ | ⟨⟨_, h⟩, -⟩ | ⟨h, -⟩ | ⟨h, -⟩ := e.moved (congrArg some hd.symm)
  case inl => exact ⟨t, ht, hdrv, hcfg, hbus⟩
  all_goals exact absurd h nofun

/-- With no bus transfer pending a step always answers, keeps the parameters, and never goes back to `Uninitialized`. -/
theorem step_next {s : State} (hb : s.busRequest = []) :
    ∃ t, step s = .next t ∧ t.cfg = s.cfg ∧ t.busRequest = [] ∧ (s.drv ≠ .uninitialized → t.drv ≠ .uninitialized) := by
  cases h : decode s.port with
  | incomplete => exact ⟨s, step_of_incomplete hb h, rfl, hb, id⟩
  | illegal why rest => exact ⟨_, step_of_illegal hb h, rfl, hb, id⟩
  | legal i rest =>
    obtain ⟨t, ht, e⟩ := exec_leaves (s.setPort rest) i
    obtain ⟨hcfg, -, hbus⟩ := e.parameters
    exact ⟨t, (step_of_legal hb h).trans ht, hcfg, hbus.trans hb, e.initialized⟩

theorem run_succ {s u : State} (h : step s = .next u) (n : Nat) : core.run (n + 1) s = core.run n u := by
  have hstep : core.step s = .next u := h
  simp only [Host.Core.run, hstep]

/-- Two states that runs from launch states with the framebuffers `m` and `m'` can have reached together: equal but for
the framebuffers while `Uninitialized`, and equal from the first `INIT` on. -/
structure Lockstep (c : Cfg) (m m' : Memory) (s s' : State) : Prop where
  cfg : s.cfg = c
  noBusRequest : s.busRequest = []
  uninitialized : s.drv = .uninitialized → s.fb = m ∧ s' = s.setFb m'
  initialized : s.drv ≠ .uninitialized → s' = s

section
variable {c : Cfg} {m m' : Memory} {s s' : State}

/-- What changes neither the driver state nor `FB` keeps two launched states apart in `FB` alone. -/
theorem Lockstep.of_uninitialized (hcfg : s.cfg = c) (hbus : s.busRequest = []) (hd : s.drv = .uninitialized)
    (hfb : s.fb = m) : Lockstep c m m' s (s.setFb m') :=
  ⟨hcfg, hbus, fun _ => ⟨hfb, rfl⟩, fun h => absurd hd h⟩

theorem Lockstep.of_initialized (hcfg : s.cfg = c) (hbus : s.busRequest = []) (hd : s.drv ≠ .uninitialized) :
    Lockstep c m m' s s :=
  ⟨hcfg, hbus, fun h => absurd h hd, fun _ => rfl⟩

variable (hm : m.wf = true ∧ m.within c.fbBytes = true) (hm' : m'.wf = true ∧ m'.within c.fbBytes = true)
include hm hm'

theorem step_lockstep_uninitialized (hcfg : s.cfg = c) (hbus : s.busRequest = []) (hd : s.drv = .uninitialized)
    (hfb : s.fb = m) : ∃ t t', step s = .next t ∧ step (s.setFb m') = .next t' ∧ Lockstep c m m' t t' := by
  cases h : decode s.port with
  | incomplete =>
    exact ⟨s, s.setFb m', step_of_incomplete hbus h, step_of_incomplete hbus h, .of_uninitialized hcfg hbus hd hfb⟩
  | illegal why rest =>
    exact ⟨_, _, step_of_illegal hbus h, step_of_illegal hbus h, .of_uninitialized hcfg hbus hd hfb⟩
  | legal i rest =>
    have hcomm : (s.setFb m').setPort rest = (s.setPort rest).setFb m' := rfl
    rw [step_of_legal hbus h, step_of_legal (s := s.setFb m') hbus h, hcomm]
    by_cases hi : i = .init
    · subst hi
      obtain ⟨t, ht, hdrv, htcfg, htbus⟩ := exec_init_uninitialized (s := s.setPort rest) hd
      have hsame : exec .init ((s.setPort rest).setFb m') = exec .init (s.setPort rest) := by
        subst hcfg hfb
        exact exec_init_setFb hd hm hm'
      exact ⟨t, t, ht, hsame.trans ht,
        .of_initialized (htcfg.trans hcfg) (htbus.trans hbus) (by rw [hdrv]; nofun)⟩
    · exact ⟨_, _, exec_uninitialized hd (decode_isHostOp h) hi, exec_uninitialized hd (decode_isHostOp h) hi,
        .of_uninitialized hcfg hbus hd hfb⟩

theorem step_lockstep (h : Lockstep c m m' s s') :
    ∃ t t', step s = .next t ∧ step s' = .next t' ∧ Lockstep c m m' t t' := by
  by_cases hd : s.drv = .uninitialized
  · obtain ⟨hfb, rfl⟩ := h.uninitialized hd
    exact step_lockstep_uninitialized hm hm' h.cfg h.noBusRequest hd hfb
  · obtain rfl := h.initialized hd
    obtain ⟨t, ht, hcfg, hbus, hdrv⟩ := step_next h.noBusRequest
    exact ⟨t, t, ht, ht, .of_initialized (hcfg.trans h.cfg) hbus (hdrv hd)⟩

theorem run_lockstep (n : Nat) (h : Lockstep c m m' s s') :
    ∃ t t', core.run n s = .next t ∧ core.run n s' = .next t' ∧ Lockstep c m m' t t' := by
  induction n generalizing s s' with
  | zero => exact ⟨s, s', rfl, rfl, h⟩
  | succ n ih =>
    obtain ⟨u, u', hu, hu', hl⟩ := step_lockstep hm hm' h
    obtain ⟨t, t', ht, ht', hl'⟩ := ih hl
    exact ⟨t, t', (run_succ hu n).trans ht, (run_succ hu' n).trans ht', hl'⟩

end

/-- Settles O59, by a lockstep of the two runs. -/
theorem resetFramebufferIsUnobservable : Obligations.ResetFramebufferIsUnobservable := by
  intro c m m' port busy n hwf hin hwf' hin'
  obtain ⟨t, t', ht, ht', hl⟩ := run_lockstep (s := { State.resetWith c m with port := port, busyIn := busy })
    ⟨hwf, hin⟩ ⟨hwf', hin'⟩ n (.of_uninitialized rfl rfl rfl rfl)
  refine ⟨t, t', ht, ht', fun hd => ?_, fun hd => (hl.initialized hd).symm⟩
  obtain ⟨rfl, rfl⟩ := hl.uninitialized hd
  exact ⟨rfl, rfl⟩

end Sys2Proof.Machine
end

section
/-! PROOFS of the family `20_memory.md`: the pixels of the panel against the bits of the framebuffer (R51, R52), what
`Plot` does to them (R53, R55, R104), and who reads and writes the framebuffer beside them: `WRITE_RAM` streams it (R58,
R204), and drawing shows nowhere outside it (R60). -/

namespace Sys2Proof.Machine

/-! Pixels and bits. -/

/-- Rows are whole bytes, so the offset in the row is the offset in the framebuffer (R51). -/
theorem bitOffset_eq_rowMajor (c : Cfg) (x y : Int) : bitOffset x = ((y * c.W + x) % 8).toNat := by
  have hw : y * (c.W : Int) + x = x + 8 * (y * c.rowBytes) := by
    rw [width_eq c]; push_cast; ring
  rw [hw, Int.add_mul_emod_self_left, bitOffset]

theorem byteIndex_cast {c : Cfg} {x y : Int} (h : inRange c x y = true) :
    (byteIndex c x y : Int) = y * c.rowBytes + x / 8 := by
  obtain ⟨a, b, rfl, rfl, -, -⟩ := exists_nat_of_inRange h
  rw [byteIndex_eq]
  push_cast
  rfl

/-- The way back from a bit to its pixel (R52). -/
theorem coordinates_of_bit {c : Cfg} {x y : Int} (h : inRange c x y = true) :
    x = (8 * (byteIndex c x y % c.rowBytes) + bitOffset x : Nat) ∧ y = (byteIndex c x y / c.rowBytes : Nat) := by
  obtain ⟨a, b, rfl, rfl, ha, -⟩ := exists_nat_of_inRange h
  have hcol : a / 8 < c.rowBytes := by
    have hw := width_eq c
    omega
  have hmod : byteIndex c a b % c.rowBytes = a / 8 := by
    rw [byteIndex_eq, Nat.mul_add_mod_of_lt hcol]
  have hdiv : byteIndex c a b / c.rowBytes = b := by
    rw [byteIndex_eq, Nat.mul_comm, Nat.mul_add_div (by omega), Nat.div_eq_of_lt hcol, Nat.add_zero]
  rw [hmod, hdiv, bitOffset_natCast, Nat.div_add_mod]
  exact ⟨rfl, rfl⟩

/-- Settles O18. -/
theorem pixelsAndBitsCorrespond : Obligations.PixelsAndBitsCorrespond := by
  intro c
  refine ⟨fun _ _ _ _ => rfl, ?formulas, fun _ _ _ _ => pixel_eq_of_bit_eq, ?onto⟩
  case formulas =>
    intro x y h
    exact ⟨rfl, byteIndex_cast h, byteIndex_lt h, rfl, bitOffset_eq_rowMajor c x y, rfl⟩
  case onto =>
    intro i j hi hj
    obtain ⟨⟨x, y⟩, hp⟩ := exists_pixel_of_bit hi hj
    exact ⟨x, y, hp⟩

/-- Settles O19: the pixel that bit `j` of byte `i` belongs to has the coordinates R52 names. -/
theorem aByteHoldsEightPixels : Obligations.AByteHoldsEightPixels := by
  intro c m i j hi hj
  obtain ⟨⟨x, y⟩, hin, hbyte, hbit⟩ := exists_pixel_of_bit hi hj
  obtain ⟨hx, hy⟩ := coordinates_of_bit hin
  rw [hbyte, hbit] at hx
  rw [hbyte] at hy
  rw [← hx, ← hy, Memory.pixel, hbyte, hbit]
  exact ⟨hin, rfl⟩

/-! `Plot`. -/

theorem Memory.read_plot_beyond {c : Cfg} {k : Colour} {m : Memory} (hm : m.wf = true) (p : Point) {i : Nat}
    (hi : c.fbBytes ≤ i) : (Memory.plot c k m p).read i = m.read i := by
  rw [Memory.read_plot hm, if_neg]
  rintro ⟨hp, rfl⟩
  exact absurd (byteIndex_lt hp) hi.not_gt

/-- Settles O20. -/
theorem plotIsClipped : Obligations.PlotIsClipped := by
  intro c k m x y hm
  refine ⟨?off, ?on, fun _ => Memory.read_plot_beyond hm (x, y)⟩
  case off =>
    intro h
    exact Memory.plot_of_not_inRange (p := (x, y)) (Bool.eq_false_iff.1 h)
  case on =>
    intro _ x' y' h'
    rw [Memory.pixel_plot hm (x, y) (x', y') h']
    cases k <;> simp only [Prod.mk.injEq, colourByte]

/-! What leaves the framebuffer, and what drawing leaves alone. -/

/-- The framebuffer is never empty, so its transfer leaves `DC` high (R5, R151). -/
theorem dcAfter_bytes (c : Cfg) (m : Memory) : dcAfter (Memory.bytes c.fbBytes m) = .driven .high := by
  have hne : Memory.bytes c.fbBytes m ≠ [] := by
    have hpos := fbBytes_pos c
    simp only [Memory.bytes, ne_eq, List.map_eq_nil_iff, List.range_eq_nil]
    omega
  exact if_neg hne

/-- Settles O48. -/
theorem writeRamStreamsTheFramebuffer : Obligations.WriteRamStreamsTheFramebuffer := by
  intro s
  refine ⟨fbBytes_pos s.cfg, ?_⟩
  have hexec : exec .writeRam s = .next (sendTransfer s.cfg.cmd.writeRam (Memory.bytes s.cfg.fbBytes s.fb) s) := rfl
  rw [hexec, sendTransfer_eq, dcAfter_bytes, transferEvents, Memory.bytes, List.map_map]
  rfl

theorem isHostOp_of_draws {i : Instr} (h : draws i = true) : i.isHostOp = true := by
  obtain rfl | ⟨_, _, _, rfl⟩ | ⟨_, _, _, _, _, rfl⟩ | ⟨_, _, _, _, _, _, rfl⟩ | ⟨_, _, _, _, _, rfl⟩ :=
    draws_cases h <;> rfl

/-- What an instruction that draws or reads a pixel can change (R60). -/
theorem Effect.drawing {s t : State} {i : Instr} (e : Effect s i t) (hi : draws i = true ∨ ∃ x y, i = .getpx x y) :
    t = { s with fb := t.fb, result := t.result, status := t.status } := by
  cases e with
  | refused | draw | getpx => rfl
  | init | refresh | sleep | wakeup | writeLut => simp [draws] at hi
  | transfer _ _ bus =>
    obtain hd | ⟨x, y, rfl⟩ := hi
    · exact absurd ((isHostOp_of_draws hd).symm.trans bus) nofun
    · exact absurd bus nofun

/-- Settles O56. -/
theorem drawingEmitsNothing : Obligations.DrawingEmitsNothing := by
  intro i s t h hi
  refine (effect_of_exec h).drawing ?_
  obtain rfl | ⟨x, y, k, rfl⟩ | hget | ⟨x0, y0, x1, y1, k, rfl⟩ | ⟨x, y, w, h, k, m, rfl⟩ |
    ⟨x, y, gs, k, bytes, rfl⟩ := hi
  · exact .inl rfl
  · exact .inl rfl
  · exact .inr hget
  · exact .inl rfl
  · exact .inl rfl
  · exact .inl rfl

end Sys2Proof.Machine
end

section
/-! PROOFS of the family `30_encoding.md`, the command word: a word is its eight fields (R71), so the masks of R73 say
exactly which fields are zero (`opOf_eq_some_iff`), and the encoder and the decoder are inverse to each other. -/

namespace Sys2Proof

/-! Words and bytes. -/

theorem append_inj {n v : Nat} {a a' : BitVec n} {b b' : BitVec v} : a ++ b = a' ++ b' ↔ a = a' ∧ b = b' := by
  refine ⟨fun h => ⟨?high, ?low⟩, fun ⟨ha, hb⟩ => by rw [ha, hb]⟩
  case high => simpa only [BitVec.extractLsb'_append_eq_left] using congrArg (BitVec.extractLsb' v n) h
  case low => simpa only [BitVec.extractLsb'_append_eq_right] using congrArg (BitVec.extractLsb' 0 v) h

/-- The bytes on the port for a word, one after the other, are that word again (R70). -/
theorem wordOfBytes_bytesOfWord (w : Word80) :
    wordOfBytes (w.extractLsb' 72 8) (w.extractLsb' 64 8) (w.extractLsb' 56 8) (w.extractLsb' 48 8)
      (w.extractLsb' 40 8) (w.extractLsb' 32 8) (w.extractLsb' 24 8) (w.extractLsb' 16 8) (w.extractLsb' 8 8)
      (w.extractLsb' 0 8) = w := by
  unfold wordOfBytes
  iterate 9 rw [BitVec.extractLsb'_append_extractLsb'_eq_extractLsb']
  · exact BitVec.extractLsb'_eq_self
  all_goals rfl

theorem bytesOfWord_wordOfBytes (b0 b1 b2 b3 b4 b5 b6 b7 b8 b9 : Byte) :
    bytesOfWord (wordOfBytes b0 b1 b2 b3 b4 b5 b6 b7 b8 b9) = [b0, b1, b2, b3, b4, b5, b6, b7, b8, b9] := by
  generalize hw : wordOfBytes b0 b1 b2 b3 b4 b5 b6 b7 b8 b9 = w
  have h := (wordOfBytes_bytesOfWord w).trans hw.symm
  unfold wordOfBytes at h
  iterate 9 rw [append_inj] at h
  simp only [bytesOfWord, h]

theorem decode_bytesOfWord (w : Word80) (rest : List Byte) :
    decode (bytesOfWord w ++ rest) = decodeAfterWord w rest := by
  rw [bytesOfWord]
  simp only [List.cons_append, List.nil_append, decode, wordOfBytes_bytesOfWord]

theorem decode_cases (bytes : List Byte) :
    decode bytes = .incomplete ∨ ∃ w rest, bytes = bytesOfWord w ++ rest := by
  unfold decode
  split
  · exact .inr ⟨_, _, by rw [bytesOfWord_wordOfBytes]; rfl⟩
  · exact .inl rfl

/-! The fields of a word. -/

/-- Field `RSV` (R71). -/
def fieldRsv (w : Word80) : BitVec 6 := w.extractLsb' 66 6

/-- The eight fields of a word (R71). -/
structure Fields where
  opc : Byte
  rsv : BitVec 6
  m : Bool
  k : Bool
  p0 : Field16
  p1 : Field16
  p2 : Field16
  p3 : Field16

/-- The word of its fields. -/
def Fields.word (f : Fields) : Word80 :=
  f.opc ++ f.rsv ++ BitVec.ofBool f.m ++ BitVec.ofBool f.k ++ f.p0 ++ f.p1 ++ f.p2 ++ f.p3

/-- The fields of a word. -/
def fieldsOf (w : Word80) : Fields :=
  ⟨fieldOpc w, fieldRsv w, fieldM w, fieldK w, fieldP0 w, fieldP1 w, fieldP2 w, fieldP3 w⟩

/-- The bitwise `and`, field by field. -/
def Fields.and (f g : Fields) : Fields :=
  ⟨f.opc &&& g.opc, f.rsv &&& g.rsv, f.m && g.m, f.k && g.k,
    f.p0 &&& g.p0, f.p1 &&& g.p1, f.p2 &&& g.p2, f.p3 &&& g.p3⟩

theorem Fields.word_inj {f g : Fields} : f.word = g.word ↔ f = g := by
  refine ⟨fun h => ?_, congrArg _⟩
  obtain ⟨⟩ := f
  obtain ⟨⟩ := g
  unfold Fields.word at h
  iterate 7 rw [append_inj] at h
  simpa only [Fields.mk.injEq, BitVec.ofBool_eq_iff_eq, and_assoc] using h

theorem Fields.word_and (f g : Fields) : f.word &&& g.word = (f.and g).word := by
  unfold Fields.word
  iterate 7 rw [BitVec.and_append]
  simp only [Fields.and, BitVec.ofBool_and_ofBool]

theorem ofBool_getLsbD (w : Word80) (i : Nat) : BitVec.ofBool (w.getLsbD i) = w.extractLsb' i 1 := by
  refine BitVec.eq_of_getLsbD_eq fun j hj => ?_
  simp [Nat.lt_one_iff.1 hj]

theorem word_fieldsOf (w : Word80) : (fieldsOf w).word = w := by
  simp only [Fields.word, fieldsOf, fieldOpc, fieldRsv, fieldM, fieldK, fieldP0, fieldP1, fieldP2, fieldP3,
    ofBool_getLsbD]
  iterate 7 rw [BitVec.extractLsb'_append_extractLsb'_eq_extractLsb']
  · exact BitVec.extractLsb'_eq_self
  all_goals rfl

theorem fieldsOf_word (f : Fields) : fieldsOf f.word = f :=
  Fields.word_inj.1 (word_fieldsOf f.word)

/-! Formats. -/

/-- The `OPC` of an operation (R73). -/
def HostOp.opc : HostOp → Byte
  | .clear => 0x01#8
  | .setpx => 0x02#8
  | .getpx => 0x03#8
  | .line => 0x10#8
  | .rect => 0x11#8
  | .text => 0x12#8
  | .init => 0x20#8
  | .refresh => 0x21#8
  | .sleep => 0x22#8
  | .wakeup => 0x23#8

/-- The fields that an operation's format does not use are zero (R72). -/
def HostOp.UnusedZero (w : Word80) : HostOp → Prop
  | .clear | .init | .sleep | .wakeup =>
    fieldM w = false ∧ fieldK w = false ∧ fieldP0 w = 0 ∧ fieldP1 w = 0 ∧ fieldP2 w = 0 ∧ fieldP3 w = 0
  | .refresh => fieldK w = false ∧ fieldP0 w = 0 ∧ fieldP1 w = 0 ∧ fieldP2 w = 0 ∧ fieldP3 w = 0
  | .getpx => fieldM w = false ∧ fieldK w = false ∧ fieldP2 w = 0 ∧ fieldP3 w = 0
  | .setpx => fieldM w = false ∧ fieldP2 w = 0 ∧ fieldP3 w = 0
  | .line => fieldM w = false
  | .rect => True
  | .text => fieldM w = false ∧ (fieldP2 w).extractLsb' 8 8 = 0

/-- A word has an operation's format (R72, R73, R74). -/
def HostOp.Fits (op : HostOp) (w : Word80) : Prop := fieldOpc w = op.opc ∧ fieldRsv w = 0 ∧ op.UnusedZero w

/-- The fields of an operation's `match` value: all but `OPC` are zero (R73). -/
def HostOp.patternFields (op : HostOp) : Fields := ⟨op.opc, 0, false, false, 0, 0, 0, 0⟩

/-- The fields of an operation's `mask` value: ones where its format shows a constant (R73). -/
def HostOp.maskFields : HostOp → Fields
  | .clear | .init | .sleep | .wakeup => ⟨0xFF#8, 0x3F#6, true, true, 0xFFFF#16, 0xFFFF#16, 0xFFFF#16, 0xFFFF#16⟩
  | .refresh => ⟨0xFF#8, 0x3F#6, false, true, 0xFFFF#16, 0xFFFF#16, 0xFFFF#16, 0xFFFF#16⟩
  | .getpx => ⟨0xFF#8, 0x3F#6, true, true, 0, 0, 0xFFFF#16, 0xFFFF#16⟩
  | .setpx => ⟨0xFF#8, 0x3F#6, true, false, 0, 0, 0xFFFF#16, 0xFFFF#16⟩
  | .line => ⟨0xFF#8, 0x3F#6, true, false, 0, 0, 0, 0⟩
  | .rect => ⟨0xFF#8, 0x3F#6, false, false, 0, 0, 0, 0⟩
  | .text => ⟨0xFF#8, 0x3F#6, true, false, 0, 0, 0xFF00#16, 0⟩

theorem opRows_fields :
    ∀ r ∈ opRows, r.pattern = r.op.patternFields.word ∧ r.mask = r.op.maskFields.word := by decide

theorem and_highMask_eq_zero_iff (v : Field16) : v &&& 0xFF00#16 = 0#16 ↔ v.extractLsb' 8 8 = 0#8 := by
  have hv : v.extractLsb' 8 8 ++ v.extractLsb' 0 8 = v := BitVec.extractLsb'_append_extractLsb' (w := 8)
  have hand : v &&& 0xFF00#16 = v.extractLsb' 8 8 ++ 0#8 := by
    conv_lhs => rw [← hv, show 0xFF00#16 = 0xFF#8 ++ 0x00#8 from rfl, BitVec.and_append]
    rw [BitVec.and_zero, show 0xFF#8 = BitVec.allOnes 8 from rfl, BitVec.and_allOnes]
  rw [hand, show 0#16 = 0#8 ++ 0#8 from rfl, append_inj, and_iff_left rfl]

/-- The masks of R73 say exactly what the formats of R72 do (R74). -/
theorem matches_iff_fits (w : Word80) (op : HostOp) :
    w &&& op.maskFields.word = op.patternFields.word ↔ op.Fits w := by
  have h8 (v : Byte) : v &&& 0xFF#8 = v := BitVec.and_allOnes
  have h6 (v : BitVec 6) : v &&& 0x3F#6 = v := BitVec.and_allOnes
  have h16 (v : Field16) : v &&& 0xFFFF#16 = v := BitVec.and_allOnes
  have hand : w &&& op.maskFields.word = ((fieldsOf w).and op.maskFields).word := by
    rw [← Fields.word_and, word_fieldsOf]
  rw [hand, Fields.word_inj]
  cases op <;>
    simp [HostOp.Fits, HostOp.UnusedZero, HostOp.maskFields, HostOp.patternFields, fieldsOf, Fields.and, h8, h6, h16,
      and_highMask_eq_zero_iff]

theorem opRows_opc_injective : ∀ r ∈ opRows, ∀ r' ∈ opRows, r.op.opc = r'.op.opc → r = r' := by decide

theorem exists_opRow (op : HostOp) : ∃ r ∈ opRows, r.op = op := by
  cases op <;> decide

/-- A word matches a row of the opcode map (R73). -/
def OpRow.matchedBy (w : Word80) (r : OpRow) : Bool := w &&& r.mask == r.pattern

theorem matchedBy_iff {w : Word80} {r : OpRow} (hr : r ∈ opRows) : r.matchedBy w = true ↔ r.op.Fits w := by
  obtain ⟨hp, hm⟩ := opRows_fields r hr
  rw [OpRow.matchedBy, beq_iff_eq, hp, hm, matches_iff_fits]

/-- The decoder takes a word for an operation exactly when the word has its format (R72, R73, R74). -/
theorem opOf_eq_some_iff {w : Word80} {op : HostOp} : opOf w = some op ↔ op.Fits w := by
  have hdef : opOf w = (opRows.find? (OpRow.matchedBy w)).map OpRow.op := rfl
  rw [hdef, Option.map_eq_some_iff]
  constructor
  · rintro ⟨r, hfind, rfl⟩
    exact (matchedBy_iff (List.mem_of_find?_eq_some hfind)).1 (List.find?_some hfind)
  · intro hfits
    obtain ⟨r, hr, rfl⟩ := exists_opRow op
    obtain ⟨r', hfind⟩ := Option.isSome_iff_exists.1 (List.find?_isSome.2 ⟨r, hr, (matchedBy_iff hr).2 hfits⟩)
    have hr' := List.mem_of_find?_eq_some hfind
    have hfits' := (matchedBy_iff hr').1 (List.find?_some hfind)
    exact ⟨r', hfind, congrArg _ (opRows_opc_injective r' hr' r hr (hfits'.1.symm.trans hfits.1))⟩

theorem decodeWord_ok_iff {w : Word80} {payload : List Byte} {i : Instr} :
    decodeWord w payload = .ok i ↔ ∃ op : HostOp, op.Fits w ∧ operandsOf op w payload = i := by
  simp only [← opOf_eq_some_iff, decodeWord]
  cases opOf w <;> simp

/-! Operands. -/

theorem fieldsOf_packWord (opc : Byte) (m k : Bool) (p0 p1 p2 p3 : Field16) :
    fieldsOf (packWord opc m k p0 p1 p2 p3) = ⟨opc, 0, m, k, p0, p1, p2, p3⟩ :=
  fieldsOf_word ⟨opc, 0, m, k, p0, p1, p2, p3⟩

section
variable (opc : Byte) (m k : Bool) (p0 p1 p2 p3 : Field16)

@[simp] theorem fieldOpc_packWord : fieldOpc (packWord opc m k p0 p1 p2 p3) = opc :=
  congrArg Fields.opc (fieldsOf_packWord ..)

@[simp] theorem fieldRsv_packWord : fieldRsv (packWord opc m k p0 p1 p2 p3) = 0 :=
  congrArg Fields.rsv (fieldsOf_packWord ..)

@[simp] theorem fieldM_packWord : fieldM (packWord opc m k p0 p1 p2 p3) = m :=
  congrArg Fields.m (fieldsOf_packWord ..)

@[simp] theorem fieldK_packWord : fieldK (packWord opc m k p0 p1 p2 p3) = k :=
  congrArg Fields.k (fieldsOf_packWord ..)

@[simp] theorem fieldP0_packWord : fieldP0 (packWord opc m k p0 p1 p2 p3) = p0 :=
  congrArg Fields.p0 (fieldsOf_packWord ..)

@[simp] theorem fieldP1_packWord : fieldP1 (packWord opc m k p0 p1 p2 p3) = p1 :=
  congrArg Fields.p1 (fieldsOf_packWord ..)

@[simp] theorem fieldP2_packWord : fieldP2 (packWord opc m k p0 p1 p2 p3) = p2 :=
  congrArg Fields.p2 (fieldsOf_packWord ..)

@[simp] theorem fieldP3_packWord : fieldP3 (packWord opc m k p0 p1 p2 p3) = p3 :=
  congrArg Fields.p3 (fieldsOf_packWord ..)

end

/-- A word whose reserved field is zero is packed from its other fields (R71). -/
theorem packWord_fields {w : Word80} (h : fieldRsv w = 0) :
    packWord (fieldOpc w) (fieldM w) (fieldK w) (fieldP0 w) (fieldP1 w) (fieldP2 w) (fieldP3 w) = w := by
  conv_rhs => rw [← word_fieldsOf w, fieldsOf, h]
  rfl

/-- The glyph size is the low byte of `P2` (R77). -/
theorem fieldGs_eq (w : Word80) : fieldGs w = (fieldP2 w).toNat % 256 := by
  rw [fieldGs, fieldP2, BitVec.extractLsb'_toNat, BitVec.extractLsb'_toNat, Nat.mod_mod_of_dvd]
  decide

theorem coordOk_iff {x : Int} : coordOk x = true ↔ -32768 ≤ x ∧ x ≤ 32767 := by simp [coordOk]

theorem sizeOk_iff {n : Nat} : sizeOk n = true ↔ n < 2 ^ 16 := by
  rw [sizeOk, decide_eq_true_eq]; omega

theorem glyphSizeOk_iff {n : Nat} : glyphSizeOk n = true ↔ n < 2 ^ 8 := by
  rw [glyphSizeOk, decide_eq_true_eq]; omega

theorem sext16_coordField {x : Int} (h : coordOk x = true) : sext16 (coordField x) = x := by
  rw [coordOk_iff] at h
  rw [sext16, coordField, BitVec.toInt_ofInt, Int.bmod_eq_of_le] <;> omega

@[simp] theorem coordField_sext16 (v : Field16) : coordField (sext16 v) = v := BitVec.ofInt_toInt

@[simp] theorem coordOk_sext16 (v : Field16) : coordOk (sext16 v) = true := by
  have hlow := BitVec.le_toInt v
  have hhigh := BitVec.toInt_lt (x := v)
  rw [coordOk_iff, sext16]
  omega

theorem zext16_sizeField {n : Nat} (h : sizeOk n = true) : zext16 (sizeField n) = n := by
  rw [zext16, sizeField, BitVec.toNat_ofNat, Nat.mod_eq_of_lt (sizeOk_iff.1 h)]

@[simp] theorem sizeField_zext16 (v : Field16) : sizeField (zext16 v) = v := by
  simp [sizeField, zext16]

@[simp] theorem sizeOk_zext16 (v : Field16) : sizeOk (zext16 v) = true := sizeOk_iff.2 v.isLt

@[simp] theorem colourOf_colourBit (k : Colour) : colourOf (colourBit k) = k := by cases k <;> rfl

@[simp] theorem colourBit_colourOf (b : Bool) : colourBit (colourOf b) = b := by cases b <;> rfl

@[simp] theorem fillModeOf_fillBit (m : FillMode) : fillModeOf (fillBit m) = m := by cases m <;> rfl

@[simp] theorem fillBit_fillModeOf (b : Bool) : fillBit (fillModeOf b) = b := by cases b <;> rfl

@[simp] theorem refreshModeOf_refreshBit (m : RefreshMode) : refreshModeOf (refreshBit m) = m := by cases m <;> rfl

@[simp] theorem refreshBit_refreshModeOf (b : Bool) : refreshBit (refreshModeOf b) = b := by cases b <;> rfl

@[simp] theorem glyphSizeOk_fieldGs (w : Word80) : glyphSizeOk (fieldGs w) = true :=
  glyphSizeOk_iff.2 (w.extractLsb' 16 8).isLt

theorem highByte_eq_zero_iff (v : Field16) : v.extractLsb' 8 8 = 0 ↔ v.toNat < 256 := by
  have hv := v.isLt
  rw [← BitVec.toNat_inj, BitVec.extractLsb'_toNat, Nat.shiftRight_eq_div_pow]
  simp only [BitVec.ofNat_eq_ofNat, BitVec.toNat_ofNat]
  omega

theorem highByte_sizeField {n : Nat} (h : glyphSizeOk n = true) : (sizeField n).extractLsb' 8 8 = 0 := by
  rw [glyphSizeOk_iff] at h
  rw [highByte_eq_zero_iff, sizeField, BitVec.toNat_ofNat, Nat.mod_eq_of_lt] <;> omega

theorem fieldGs_sizeField {opc : Byte} {m k : Bool} {p0 p1 p3 : Field16} {n : Nat} (h : glyphSizeOk n = true) :
    fieldGs (packWord opc m k p0 p1 (sizeField n) p3) = n := by
  rw [glyphSizeOk_iff] at h
  rw [fieldGs_eq, fieldP2_packWord, sizeField, BitVec.toNat_ofNat]
  omega

theorem sizeField_fieldGs {w : Word80} (h : (fieldP2 w).extractLsb' 8 8 = 0) : sizeField (fieldGs w) = fieldP2 w := by
  rw [fieldGs_eq, Nat.mod_eq_of_lt ((highByte_eq_zero_iff _).1 h)]
  exact sizeField_zext16 _

/-! The encoder against the decoder. -/

/-- The operation of the opcode map that an instruction is (R73). -/
def Instr.hostOp : Instr → Option HostOp
  | .clear => some .clear
  | .setpx .. => some .setpx
  | .getpx .. => some .getpx
  | .line .. => some .line
  | .rect .. => some .rect
  | .text .. => some .text
  | .init => some .init
  | .refresh _ => some .refresh
  | .sleep => some .sleep
  | .wakeup => some .wakeup
  | _ => none

theorem exists_hostOp {i : Instr} (host : i.isHostOp = true) :
    ∃ op w, i.hostOp = some op ∧ encodeWord i = some w := by
  cases i <;> simp [Instr.isHostOp, Instr.hostOp, encodeWord] at host ⊢

section
variable {i : Instr} {op : HostOp} {w : Word80} (hwf : i.WellFormed) (hop : i.hostOp = some op)
  (hw : encodeWord i = some w)
include hwf hop hw

/-- The word of a well-formed operation has the operation's format (R72). -/
theorem fits_of_encodeWord : op.Fits w := by
  cases i with
  | text x y gs k bytes =>
    simp only [Instr.WellFormed, Instr.wf, Bool.and_eq_true] at hwf
    obtain ⟨⟨-, hgs⟩, -⟩ := hwf
    cases hop
    cases hw
    simp [HostOp.Fits, HostOp.opc, HostOp.UnusedZero, highByte_sizeField hgs]
  | _ => cases hop <;> cases hw <;> simp [HostOp.Fits, HostOp.opc, HostOp.UnusedZero]

/-- The operands of a well-formed operation read back from its word and payload (R76 to R79). -/
theorem operandsOf_encodeWord : operandsOf op w (payloadOf i) = i := by
  cases i <;> cases hop <;> cases hw
  all_goals
    simp only [Instr.WellFormed, Instr.wf, Bool.and_eq_true] at hwf
    simp [operandsOf, sext16_coordField, zext16_sizeField, fieldGs_sizeField, payloadOf, hwf]

/-- The length that the word of a well-formed operation announces is that of its payload (R79, R80). -/
theorem payloadLength_encodeWord : payloadLength w = (payloadOf i).length := by
  cases i with
  | text x y gs k bytes =>
    simp only [Instr.WellFormed, Instr.wf, Bool.and_eq_true] at hwf
    obtain ⟨-, hlen⟩ := hwf
    cases hop
    cases hw
    simp [payloadLength, zext16_sizeField hlen, payloadOf]
  | _ => cases hop <;> cases hw <;> simp [payloadLength, payloadOf]

end

/-- A word that fits an operation's format is the one the encoder packs for the operation it spells (R75). -/
theorem encodeWord_operandsOf {op : HostOp} {w : Word80} {payload : List Byte} (h : op.Fits w)
    (hlen : payload.length = payloadLength w) : encodeWord (operandsOf op w payload) = some w := by
  obtain ⟨hopc, hrsv, hunused⟩ := h
  conv_rhs => rw [← packWord_fields hrsv]
  cases op
  case text =>
    obtain ⟨hm, hhigh⟩ := hunused
    have hp3 : sizeField payload.length = fieldP3 w := by
      rw [hlen, payloadLength, hopc, HostOp.opc, if_pos rfl, sizeField_zext16]
    simp [operandsOf, encodeWord, hopc, HostOp.opc, hm, sizeField_fieldGs hhigh, hp3]
  all_goals
    simp only [HostOp.UnusedZero] at hunused
    simp [operandsOf, encodeWord, hopc, HostOp.opc, hunused]

theorem operandsOf_wf (op : HostOp) (w : Word80) {payload : List Byte} (hlen : sizeOk payload.length = true) :
    (operandsOf op w payload).WellFormed := by
  cases op <;> simp [Instr.WellFormed, operandsOf, Instr.wf, hlen]

theorem payloadOf_operandsOf {op : HostOp} {w : Word80} {payload : List Byte} (h : op.Fits w)
    (hlen : payload.length = payloadLength w) : payloadOf (operandsOf op w payload) = payload := by
  cases op
  case text => rfl
  all_goals
    refine (List.eq_nil_of_length_eq_zero ?_).symm
    rw [hlen, payloadLength, h.1]
    rfl

theorem sizeOk_payloadLength (w : Word80) : sizeOk (payloadLength w) = true := by
  unfold payloadLength
  split
  · exact sizeOk_zext16 _
  · rfl

/-! The port's bytes as a word, its payload and the rest. -/

theorem exists_payload {w : Word80} {after : List Byte} (h : payloadLength w ≤ after.length) :
    ∃ payload rest, after = payload ++ rest ∧ payload.length = payloadLength w :=
  ⟨after.take (payloadLength w), after.drop (payloadLength w), (List.take_append_drop _ _).symm,
    List.length_take_of_le h⟩

theorem decodeAfterWord_short {w : Word80} {after : List Byte} (h : after.length < payloadLength w) :
    decodeAfterWord w after = .incomplete := if_pos h

section
variable {w : Word80} {payload : List Byte} (hlen : payload.length = payloadLength w)
include hlen

theorem decodeAfterWord_ok {i : Instr} (h : decodeWord w payload = .ok i) (rest : List Byte) :
    decodeAfterWord w (payload ++ rest) = .legal i rest := by
  simp [decodeAfterWord, ← hlen, h]

theorem decodeAfterWord_error {why : IllegalWord} (h : decodeWord w payload = .error why) (rest : List Byte) :
    decodeAfterWord w (payload ++ rest) = .illegal why rest := by
  simp [decodeAfterWord, ← hlen, h]

end

/-- Bytes that decode to an instruction are a word, its payload, and the rest (R70, R79). -/
theorem decode_legal_cases {bytes rest : List Byte} {i : Instr} (h : decode bytes = .legal i rest) :
    ∃ w payload, bytes = bytesOfWord w ++ (payload ++ rest) ∧ payload.length = payloadLength w ∧
      decodeWord w payload = .ok i := by
  obtain hshort | ⟨w, after, rfl⟩ := decode_cases bytes
  · exact absurd (hshort.symm.trans h) nofun
  rw [decode_bytesOfWord] at h
  obtain hshort | hlong := Nat.lt_or_ge after.length (payloadLength w)
  · exact absurd ((decodeAfterWord_short hshort).symm.trans h) nofun
  obtain ⟨payload, tail, rfl, hlen⟩ := exists_payload hlong
  cases hword : decodeWord w payload with
  | error why => exact absurd ((decodeAfterWord_error hlen hword tail).symm.trans h) nofun
  | ok j =>
    obtain ⟨rfl, rfl⟩ := Decoded.legal.inj ((decodeAfterWord_ok hlen hword tail).symm.trans h)
    exact ⟨w, payload, rfl, hlen, hword⟩

/-- Settles O1: the encoder's word fits its operation's format, and its operands and payload read back. -/
theorem encodedOperationsDecodeBack : Obligations.EncodedOperationsDecodeBack := by
  intro c i rest host hwf
  obtain ⟨op, w, hop, hw⟩ := exists_hostOp host
  have hlen := payloadLength_encodeWord hwf hop hw
  have hword : decodeWord w (payloadOf i) = .ok i :=
    decodeWord_ok_iff.2 ⟨op, fits_of_encodeWord hwf hop hw, operandsOf_encodeWord hwf hop hw⟩
  simp only [encode, hw, List.append_assoc]
  rw [decode_bytesOfWord, decodeAfterWord_ok hlen.symm hword]

/-- Settles O2: a word that fits a format is packed from the operands it spells. -/
theorem decodedCommandsHaveOneSpelling : Obligations.DecodedCommandsHaveOneSpelling := by
  intro c bytes rest i h
  obtain ⟨w, payload, rfl, hlen, hword⟩ := decode_legal_cases h
  obtain ⟨op, hfits, rfl⟩ := decodeWord_ok_iff.1 hword
  refine ⟨Machine.operandsOf_isHostOp op w payload, operandsOf_wf op w (hlen ▸ sizeOk_payloadLength w), ?_⟩
  simp only [encode, encodeWord_operandsOf hfits hlen, payloadOf_operandsOf hfits hlen, List.append_assoc]

/-! Legal words and their length. -/

theorem getLsbD_eq_false_iff {w : Word80} {i : Nat} : w.getLsbD i = false ↔ w.extractLsb' i 1 = 0#1 := by
  rw [← ofBool_getLsbD, show 0#1 = BitVec.ofBool false from rfl, BitVec.ofBool_eq_iff_eq]

/-- The ten operations, grouped by format (R72). -/
theorem HostOp.exists_iff {p : HostOp → Prop} :
    (∃ op, p op) ↔
      (p .clear ∨ p .init ∨ p .sleep ∨ p .wakeup) ∨
        p .refresh ∨ p .getpx ∨ p .setpx ∨ p .line ∨ p .rect ∨ p .text := by
  constructor
  · rintro ⟨op, h⟩
    cases op <;> simp only [h, true_or, or_true]
  · rintro ((h | h | h | h) | h | h | h | h | h | h) <;> exact ⟨_, h⟩

/-- Settles O3: a word decodes when it fits one of the ten operations' formats. -/
theorem legalWordsAreTheFormats : Obligations.LegalWordsAreTheFormats := by
  intro w payload
  have hlegal : (∃ i, decodeWord w payload = .ok i) ↔
      fieldRsv w = 0 ∧ ∃ op : HostOp, fieldOpc w = op.opc ∧ op.UnusedZero w := by
    simp only [decodeWord_ok_iff]
    exact ⟨fun ⟨_, op, ⟨hopc, hrsv, hzero⟩, _⟩ => ⟨hrsv, op, hopc, hzero⟩,
      fun ⟨hrsv, op, hopc, hzero⟩ => ⟨_, op, ⟨hopc, hrsv, hzero⟩, rfl⟩⟩
  rw [hlegal, HostOp.exists_iff]
  simp only [HostOp.opc, HostOp.UnusedZero, fieldM, fieldK, getLsbD_eq_false_iff, ← or_and_right, and_true]
  rfl

/-- The fields that the length rule reads are byte 0 and bytes 8, 9 (R70, R80). -/
theorem lengthFields_wordOfBytes (b0 b1 b2 b3 b4 b5 b6 b7 b8 b9 : Byte) :
    fieldOpc (wordOfBytes b0 b1 b2 b3 b4 b5 b6 b7 b8 b9) = b0 ∧
      fieldP3 (wordOfBytes b0 b1 b2 b3 b4 b5 b6 b7 b8 b9) = b8 ++ b9 := by
  have h := bytesOfWord_wordOfBytes b0 b1 b2 b3 b4 b5 b6 b7 b8 b9
  generalize wordOfBytes b0 b1 b2 b3 b4 b5 b6 b7 b8 b9 = w at h
  simp only [bytesOfWord, List.cons.injEq, and_true] at h
  obtain ⟨h0, -, -, -, -, -, -, -, h8, h9⟩ := h
  refine ⟨h0, ?_⟩
  rw [← h8, ← h9]
  exact (BitVec.extractLsb'_append_extractLsb'_eq_extractLsb' (start₁ := 0) (len₁ := 8) rfl).symm

theorem payloadLength_wordOfBytes (b0 b1 b2 b3 b4 b5 b6 b7 b8 b9 : Byte) :
    payloadLength (wordOfBytes b0 b1 b2 b3 b4 b5 b6 b7 b8 b9) =
      if b0 = 0x12#8 then b8.toNat * 256 + b9.toNat else 0 := by
  obtain ⟨hopc, hp3⟩ := lengthFields_wordOfBytes b0 b1 b2 b3 b4 b5 b6 b7 b8 b9
  have hlow : b9.toNat < 2 ^ 8 := b9.isLt
  rw [payloadLength, hopc, hp3, zext16, BitVec.toNat_append, ← Nat.shiftLeft_add_eq_or_of_lt hlow, Nat.shiftLeft_eq]

/-- Settles O4: the payload is split off by its length before the word is judged. -/
theorem lengthRuleKeepsThePortInStep : Obligations.LengthRuleKeepsThePortInStep := by
  intro b0 b1 b2 b3 b4 b5 b6 b7 b8 b9 rest
  dsimp only
  rw [← payloadLength_wordOfBytes b0 b1 b2 b3 b4 b5 b6 b7 b8 b9]
  refine ⟨decodeAfterWord_short, fun hlong => ?_⟩
  obtain ⟨payload, tail, rfl, hlen⟩ := exists_payload hlong
  rw [List.drop_left' hlen]
  cases hword : decodeWord (wordOfBytes b0 b1 b2 b3 b4 b5 b6 b7 b8 b9) payload with
  | ok i => exact .inl ⟨i, decodeAfterWord_ok hlen hword tail⟩
  | error why => exact .inr ⟨why, decodeAfterWord_error hlen hword tail⟩

/-- Settles O6: twelve closed words, by evaluation. -/
theorem sampleWordsDecode : Obligations.SampleWordsDecode := by
  unfold Obligations.SampleWordsDecode
  decide

end Sys2Proof
end

section
/-! PROOFS of the family `30_encoding.md`, the bus command byte: the decoder is a lookup in R190's table, whose
codes are distinct. -/

namespace Sys2Proof

section
variable {α : Type} {a : Byte} {b : α}

theorem lookup_cons_ite (k : Byte) (v : α) (l : List (Byte × α)) :
    ((k, v) :: l).lookup a = if a = k then some v else l.lookup a := by
  rw [List.lookup_cons]
  split <;> simp_all

theorem lookup_eq_some_iff_mem {l : List (Byte × α)} (h : (l.map Prod.fst).Nodup) :
    l.lookup a = some b ↔ (a, b) ∈ l := by
  induction l with
  | nil => simp
  | cons row l ih =>
    obtain ⟨k, v⟩ := row
    obtain ⟨hk, hl⟩ := List.nodup_cons.1 h
    rw [lookup_cons_ite, List.mem_cons, Prod.mk.injEq]
    split
    · next hak =>
      have hnot : (a, b) ∉ l := fun hmem => hk (List.mem_map.2 ⟨_, hmem, hak⟩)
      simp only [hak, true_and, hak ▸ hnot, or_false, Option.some.injEq, eq_comm]
    · next hak => simp only [hak, false_and, false_or, ih hl]

end

/-- The rows of R190's table as the decoder reads them: each code with the command it names, `WRITE_LUT` with the table
that the data bytes are. -/
def busRows (c : Cfg) (data : List Byte) : List (Byte × Instr) :=
  [(c.cmd.swReset, .swReset), (c.cmd.driverOutputControl, .driverOutputControl),
   (c.cmd.boosterSoftStart, .boosterSoftStart), (c.cmd.writeVcom, .writeVcom),
   (c.cmd.dummyLinePeriod, .dummyLinePeriod), (c.cmd.gateTime, .gateTime), (c.cmd.dataEntryMode, .dataEntryMode),
   (c.cmd.writeLut, .writeLut (waveformOf c data)), (c.cmd.setRamXRange, .setRamXRange),
   (c.cmd.setRamYRange, .setRamYRange), (c.cmd.setRamXCounter, .setRamXCounter),
   (c.cmd.setRamYCounter, .setRamYCounter), (c.cmd.writeRam, .writeRam),
   (c.cmd.displayUpdateControl2, .displayUpdateControl2), (c.cmd.masterActivation, .masterActivation),
   (c.cmd.terminateFrame, .terminateFrame), (c.cmd.deepSleep, .deepSleep)]

section
variable (c : Cfg) (data : List Byte)

theorem busRows_codes : (busRows c data).map Prod.fst = c.cmd.toList := rfl

/-- A row's command is a bus command, and its code is the first of that command's bytes (R190). -/
theorem busRows_encode :
    ∀ row ∈ busRows c data, row.2.isHostOp = false ∧ (encodeBus c row.2).head? = some row.1 := by
  simp [busRows, Instr.isHostOp, encodeBus]

theorem decodeBus_cons (code : Byte) :
    decodeBus c (code :: data) = (busRows c data).lookup code := by
  simp only [busRows, lookup_cons_ite, List.lookup_nil, decodeBus]

/-- The codes are distinct (R5), so a byte names a command exactly when the table pairs them (R190). -/
theorem decodeBus_eq_some_iff {code : Byte} {i : Instr} :
    decodeBus c (code :: data) = some i ↔ (code, i) ∈ busRows c data := by
  have hcodes : ((busRows c data).map Prod.fst).Nodup := c.cmd_distinct
  rw [decodeBus_cons, lookup_eq_some_iff_mem hcodes]

end

theorem waveformOf_lut {c : Cfg} {t : Waveform} (h : t = .partialUpdate → c.lutFull ≠ c.lutPartial) :
    waveformOf c (c.lut t) = t := by
  cases t with
  | fullUpdate => simp [waveformOf, Cfg.lut]
  | partialUpdate => simp [waveformOf, Cfg.lut, (h rfl).symm]

/-- A bus command's bytes are a row's code and the data that name the row's command. -/
theorem encodeBus_mem_busRows {c : Cfg} {i : Instr} (bus : i.isHostOp = false)
    (hlut : i = .writeLut .partialUpdate → c.lutFull ≠ c.lutPartial) :
    ∃ code data, encodeBus c i = code :: data ∧ (code, i) ∈ busRows c data := by
  cases i with
  | writeLut t =>
    have ht : waveformOf c (c.lut t) = t := waveformOf_lut fun h => hlut (congrArg _ h)
    exact ⟨_, _, rfl, by simp [busRows, ht]⟩
  | clear | setpx | getpx | line | rect | text | init | refresh | sleep | wakeup => exact absurd bus nofun
  | _ => exact ⟨_, _, rfl, by simp [busRows]⟩

/-- Settles O5, by the table that the decoder looks codes up in. -/
theorem busCommandsDecodeBack : Obligations.BusCommandsDecodeBack := by
  intro c
  refine ⟨fun i bus hlut => ?_, fun code data => ⟨?_, fun i h => ?_⟩⟩
  · obtain ⟨code, data, hbytes, hrow⟩ := encodeBus_mem_busRows bus hlut
    rw [hbytes, decodeBus_eq_some_iff]
    exact hrow
  · rw [← busRows_codes c data, List.mem_map, Option.isSome_iff_exists]
    simp only [decodeBus_eq_some_iff]
    exact ⟨fun ⟨i, h⟩ => ⟨_, h, rfl⟩, by rintro ⟨row, h, rfl⟩; exact ⟨row.2, h⟩⟩
  · exact busRows_encode c data _ ((decodeBus_eq_some_iff c data).1 h)

end Sys2Proof
end

section
/-! PROOFS of the family `30_encoding.md`, one step: an illegal word, and a word placed for the fetch. -/

namespace Sys2Proof.Machine

theorem ofNat_shiftRight (w : Nat) {n : Nat} (h : n ≤ 72) :
    BitVec.ofNat 8 (w >>> n) = (BitVec.ofNat 80 w).extractLsb' n 8 := by
  refine BitVec.eq_of_getLsbD_eq fun i hi => ?_
  have hin : n + i < 80 := by omega
  simp only [BitVec.getLsbD_ofNat, BitVec.getLsbD_extractLsb', Nat.testBit_shiftRight, hi, hin, decide_true,
    Bool.true_and]

/-- The ten bytes that stand for a word in the opcode table are that word's bytes on the port (R70). -/
theorem bigEndianBytes_ten (w : Nat) : bigEndianBytes 10 w = bytesOfWord (BitVec.ofNat 80 w) := by
  simp [bigEndianBytes, bytesOfWord, ← ofNat_shiftRight]

theorem hostTableBytes_eq (w : Nat) :
    hostTableBytes w =
      bytesOfWord (BitVec.ofNat 80 w) ++ List.replicate (payloadLength (BitVec.ofNat 80 w)) 0#8 := by
  rw [hostTableBytes, bigEndianBytes_ten]

/-- Settles O8. -/
theorem illegalWordChangesOnlyStatus : Obligations.IllegalWordChangesOnlyStatus :=
  fun _ _ _ hb h => step_of_illegal hb h

theorem decodeWord_of_decodeTableWord {w : Nat} {i : Instr} (h : decodeTableWord 80 w = some i) :
    decodeWord (BitVec.ofNat 80 w) (List.replicate (payloadLength (BitVec.ofNat 80 w)) 0#8) = .ok i := by
  rw [decodeTableWord, if_pos rfl, hostTableBytes_eq, decode_bytesOfWord, ← List.append_nil (List.replicate _ _)] at h
  cases hword : decodeWord (BitVec.ofNat 80 w) (List.replicate (payloadLength (BitVec.ofNat 80 w)) 0#8) with
  | ok j =>
    rw [decodeAfterWord_ok List.length_replicate hword] at h
    rw [Option.some.inj h]
  | error why =>
    rw [decodeAfterWord_error List.length_replicate hword] at h
    exact absurd h nofun

/-- Settles O9: the word placed decodes with its payload of zeros, and what was on the port is what it leaves. -/
theorem placedCommandRunsNext : Obligations.PlacedCommandRunsNext := by
  intro s w i hb h
  have hplaced : (s.withFetchWord 80 w).port = hostTableBytes w ++ s.port := rfl
  have hdecode : decode (s.withFetchWord 80 w).port = .legal i s.port := by
    rw [hplaced, hostTableBytes_eq, List.append_assoc, decode_bytesOfWord]
    exact decodeAfterWord_ok List.length_replicate (decodeWord_of_decodeTableWord h) s.port
  have hback : (s.withFetchWord 80 w).setPort s.port = s := by
    change s.setBusRequest [] = s
    rw [← hb]
    rfl
  rw [step_of_legal rfl hdecode, hback]

end Sys2Proof.Machine
end

section
/-! PROOFS of the family `30_encoding.md`, the payload of `TEXT`: where its bytes put the cursor (R134), and which pixels
the outline squares there colour (R128, R133). -/

namespace Sys2Proof.Machine

/-! The cursor. -/

section
variable {c : Cfg} {x cx cy : Int} {gs : Nat}

theorem glyphOrigins_below (h : (c.H : Int) < cy) (bytes : List Byte) : glyphOrigins c x gs bytes cx cy = [] := by
  cases bytes with
  | nil => rfl
  | cons ch rest => rw [glyphOrigins, if_pos h]

theorem glyphOrigins_newline (h : cy ≤ (c.H : Int)) (rest : List Byte) :
    glyphOrigins c x gs (newline :: rest) cx cy = glyphOrigins c x gs rest x (cy + gs + 2) := by
  rw [glyphOrigins, if_neg (by omega), if_pos rfl]

theorem glyphOrigins_fits {ch : Byte} (hch : ch ≠ newline) (h : cy ≤ (c.H : Int)) (hfit : cx + gs ≤ (c.W : Int))
    (rest : List Byte) :
    glyphOrigins c x gs (ch :: rest) cx cy = (cx, cy) :: glyphOrigins c x gs rest (cx + gs) cy := by
  rw [glyphOrigins, if_neg (by omega), if_neg hch, if_neg (by omega)]

theorem glyphOrigins_wraps {ch : Byte} (hch : ch ≠ newline) (h : cy ≤ (c.H : Int)) (hfull : (c.W : Int) < cx + gs)
    (rest : List Byte) :
    glyphOrigins c x gs (ch :: rest) cx cy =
      if (c.H : Int) < cy + gs + 2 then []
      else (x, cy + gs + 2) :: glyphOrigins c x gs rest (x + gs) (cy + gs + 2) := by
  rw [glyphOrigins, if_neg (by omega), if_neg hch, if_pos hfull]

/-- Characters that fit in the rest of the line stand side by side on it (R134). -/
theorem glyphOrigins_line {line : List Byte} (hline : newline ∉ line) (h : cy ≤ (c.H : Int))
    (hfit : cx + gs * line.length ≤ (c.W : Int)) (rest : List Byte) :
    glyphOrigins c x gs (line ++ rest) cx cy =
      (List.range line.length).map (fun i : Nat => (cx + gs * (i : Int), cy)) ++
        glyphOrigins c x gs rest (cx + gs * line.length) cy := by
  induction line generalizing cx with
  | nil => simp
  | cons ch line ih =>
    rw [List.mem_cons, not_or] at hline
    obtain ⟨hch, hline⟩ := hline
    rw [List.length_cons] at hfit ⊢
    push_cast at hfit ⊢
    have hstep : cx + gs * ((line.length : Int) + 1) = cx + gs + gs * line.length := by ring
    have hpos : 0 ≤ (gs : Int) * line.length := by positivity
    rw [hstep] at hfit ⊢
    rw [List.cons_append, glyphOrigins_fits (Ne.symm hch) h (by omega), ih hline hfit, List.range_succ_eq_map]
    simp [Function.comp_def, mul_add, add_assoc, add_comm]

/-- With no room in a line, every character goes to a line of its own (R135 (c)). -/
theorem glyphOrigins_column {bytes : List Byte} (hbytes : newline ∉ bytes) (hx : (c.W : Int) < x + gs)
    (hfull : (c.W : Int) < cx + gs) (h : cy ≤ (c.H : Int)) :
    glyphOrigins c x gs bytes cx cy =
      ((List.range bytes.length).map fun i : Nat => (x, cy + (gs + 2) * ((i : Int) + 1))).takeWhile
        fun p : Point => decide (p.2 ≤ (c.H : Int)) := by
  induction bytes generalizing cx cy with
  | nil => rfl
  | cons ch bytes ih =>
    rw [List.mem_cons, not_or] at hbytes
    obtain ⟨hch, hbytes⟩ := hbytes
    have hfirst : cy + (gs + 2) * (((0 : Nat) : Int) + 1) = cy + gs + 2 := by push_cast; ring
    have hnext (i : Nat) : cy + (gs + 2) * (((i + 1 : Nat) : Int) + 1) = cy + gs + 2 + (gs + 2) * ((i : Int) + 1) := by
      push_cast; ring
    rw [glyphOrigins_wraps (Ne.symm hch) h hfull, List.length_cons, List.range_succ_eq_map, List.map_cons, List.map_map,
      List.takeWhile_cons]
    simp only [hfirst, Function.comp_def, hnext]
    by_cases hbelow : (c.H : Int) < cy + gs + 2
    · rw [if_pos hbelow, if_neg (by simpa using hbelow)]
    · rw [if_neg hbelow, if_pos (by simpa using hbelow), ih hbytes (by omega) (by omega)]

/-- The cursor depends only on which of the bytes are newlines (R133). -/
theorem glyphOrigins_congr {as bs : List Byte} (hlen : as.length = bs.length)
    (h : ∀ n : Nat, as[n]? = some newline ↔ bs[n]? = some newline) :
    glyphOrigins c x gs as cx cy = glyphOrigins c x gs bs cx cy := by
  induction as generalizing bs cx cy with
  | nil => rw [List.length_eq_zero_iff.1 hlen.symm]
  | cons a as ih =>
    obtain ⟨b, bs, rfl⟩ := List.exists_cons_of_length_eq_add_one hlen.symm
    have hhead : a = newline ↔ b = newline := by simpa using h 0
    have htail (cx cy : Int) : glyphOrigins c x gs as cx cy = glyphOrigins c x gs bs cx cy :=
      ih (by simpa using hlen) fun n => by simpa using h (n + 1)
    simp only [glyphOrigins, hhead, htail]

end

/-- Settles O32. -/
theorem textCursorMovesLineByLine : Obligations.TextCursorMovesLineByLine :=
  fun _ _ _ _ _ _ rest _ =>
    ⟨fun hline h hfit => glyphOrigins_line hline h hfit rest,
      fun h => glyphOrigins_newline h rest,
      fun hch h hfull => glyphOrigins_wraps hch h hfull rest,
      fun h => glyphOrigins_below h rest⟩

/-- Settles O31: the cursor, and so every pixel, depends only on where the newlines are. -/
theorem textIgnoresCharacterCodes : Obligations.TextIgnoresCharacterCodes := by
  intro s x y gs k as bs hlen h
  have hempty : as = [] ↔ bs = [] := by rw [← List.length_eq_zero_iff, hlen, List.length_eq_zero_iff]
  have hdraw : drawText s.cfg x y gs k as s.fb = drawText s.cfg x y gs k bs s.fb := by
    rw [drawText, drawText, glyphOrigins_congr hlen h]
  simp only [exec, execText, gateFramebuffer, hempty, hdraw]

/-- A `TEXT` whose operands are legal, outside `Uninitialized`, draws and ends `Ok` (R131, R132). -/
theorem exec_text {s : State} {x y : Int} {gs : Nat} {k : Colour} {bytes : List Byte} (hd : s.drv ≠ .uninitialized)
    (hne : bytes ≠ []) (hgs : 3 ≤ gs) :
    exec (.text x y gs k bytes) s = .next { s with fb := drawText s.cfg x y gs k bytes s.fb, status := .ok } := by
  rw [exec, execText, gateFramebuffer_initialized hd, if_neg (by simp only [hne, false_or]; omega)]
  rfl

/-- Settles O33. -/
theorem textWithoutRoomGoesDownOneColumn : Obligations.TextWithoutRoomGoesDownOneColumn := by
  refine ⟨fun c x y gs bytes hbytes hx h => glyphOrigins_column hbytes hx hx h, ?_⟩
  intro s x y gs k bytes hd hne hgs hbelow
  rw [exec_text hd hne hgs, drawText, glyphOrigins_below hbelow]
  rfl

/-! Horizontal and vertical lines. -/

/-- The loop on a horizontal line: the error never lets `y` move (R125 (d)). -/
theorem bresLoop_horizontal (sy x y : Int) {dx : Int} {n : Nat} (h : (n : Int) ≤ dx) :
    bresLoop dx 0 sy (x + n) y (n + 1) x y dx = (List.range (n + 1)).map fun i : Nat => (x + (i : Int), y) := by
  induction n generalizing x with
  | zero => simp [bresLoop]
  | succ n ih =>
    push_cast at h
    have hshift (i : Nat) : x + ((i + 1 : Nat) : Int) = x + 1 + i := by push_cast; ring
    have hend : ¬ (x = x + 1 + n ∧ y = y) := by omega
    have hx : -0 < 2 * dx := by omega
    have hy : ¬ 2 * dx < dx := by omega
    rw [hshift, bresLoop, if_neg hend, List.range_succ_eq_map, List.map_cons, List.map_map]
    simp only [hx, hy, if_true, if_false, sub_zero]
    rw [ih (x + 1) (by omega)]
    simp only [Function.comp_def, hshift, Nat.cast_zero, add_zero]

/-- The loop on a vertical line: the error never lets `x` move (R125 (d)). -/
theorem bresLoop_vertical (x y : Int) {dy : Int} {n : Nat} (h : (n : Int) ≤ dy) :
    bresLoop 0 dy 1 x (y + n) (n + 1) x y (-dy) = (List.range (n + 1)).map fun i : Nat => (x, y + (i : Int)) := by
  induction n generalizing y with
  | zero => simp [bresLoop]
  | succ n ih =>
    push_cast at h
    have hshift (i : Nat) : y + ((i + 1 : Nat) : Int) = y + 1 + i := by push_cast; ring
    have hend : ¬ (x = x ∧ y = y + 1 + n) := by omega
    have hx : ¬ -dy < 2 * -dy := by omega
    have hy : 2 * -dy < 0 := by omega
    rw [hshift, bresLoop, if_neg hend, List.range_succ_eq_map, List.map_cons, List.map_map]
    simp only [hx, hy, if_true, if_false, add_zero]
    rw [ih (y + 1) (by omega)]
    simp only [Function.comp_def, hshift, Nat.cast_zero, add_zero]

theorem linePoints_horizontal (x y : Int) (n : Nat) :
    linePoints x y (x + n) y = (List.range (n + 1)).map fun i : Nat => (x + (i : Int), y) := by
  rw [linePoints, if_neg (by omega), bresPoints]
  have hdx : x + n - x = (n : Int) := by omega
  simp only [hdx, sub_self, Int.natAbs_zero, Nat.cast_zero, add_zero, sub_zero, Int.toNat_natCast, le_refl, if_true]
  exact bresLoop_horizontal 1 x y (le_refl _)

theorem linePoints_vertical (x y : Int) (n : Nat) :
    linePoints x y x (y + n) = (List.range (n + 1)).map fun i : Nat => (x, y + (i : Int)) := by
  rw [linePoints, if_neg (by omega), bresPoints]
  have hdy : y + n - y = (n : Int) := by omega
  have hup : y ≤ y + n := by omega
  simp only [hdy, sub_self, Int.natAbs_natCast, zero_add, zero_sub, Int.toNat_natCast, hup, if_true]
  exact bresLoop_vertical x y (le_refl _)

theorem mem_linePoints_horizontal {x y xr : Int} (h : x ≤ xr) {p : Point} :
    p ∈ linePoints x y xr y ↔ x ≤ p.1 ∧ p.1 ≤ xr ∧ p.2 = y := by
  obtain ⟨n, rfl⟩ := Int.le.dest h
  rw [linePoints_horizontal, List.mem_map]
  constructor
  · rintro ⟨i, hi, rfl⟩
    rw [List.mem_range] at hi
    exact ⟨by omega, by omega, rfl⟩
  · rintro ⟨hl, hr, hy⟩
    exact ⟨(p.1 - x).toNat, List.mem_range.2 (by omega), Prod.ext (by dsimp only; omega) hy.symm⟩

theorem mem_linePoints_vertical {x y yb : Int} (h : y ≤ yb) {p : Point} :
    p ∈ linePoints x y x yb ↔ p.1 = x ∧ y ≤ p.2 ∧ p.2 ≤ yb := by
  obtain ⟨n, rfl⟩ := Int.le.dest h
  rw [linePoints_vertical, List.mem_map]
  constructor
  · rintro ⟨i, hi, rfl⟩
    rw [List.mem_range] at hi
    exact ⟨rfl, by omega, by omega⟩
  · rintro ⟨hx, ht, hb⟩
    exact ⟨(p.2 - y).toNat, List.mem_range.2 (by omega), Prod.ext hx.symm (by dsimp only; omega)⟩

/-! Outline squares. -/

/-- The points of an outline rectangle in the order they are plotted: top, bottom, left, right (R128, R129). -/
def outlinePoints (x y : Int) (w h : Nat) : List Point :=
  if w = 0 ∨ h = 0 then []
  else
    linePoints x y (x + w - 1) y ++ linePoints x (y + h - 1) (x + w - 1) (y + h - 1) ++ linePoints x y x (y + h - 1) ++
      linePoints (x + w - 1) y (x + w - 1) (y + h - 1)

theorem outlineRect_eq (c : Cfg) (x y : Int) (w h : Nat) (k : Colour) (m : Memory) :
    outlineRect c x y w h k m = Memory.plotAll c k (outlinePoints x y w h) m := by
  unfold outlineRect outlinePoints
  split
  · rfl
  · simp only [drawLine, Memory.plotAll_append]

/-- The outline is the perimeter of the rectangle (R128, R130). -/
theorem mem_outlinePoints {x y : Int} {w h : Nat} {p : Point} :
    p ∈ outlinePoints x y w h ↔
      x ≤ p.1 ∧ p.1 < x + w ∧ y ≤ p.2 ∧ p.2 < y + h ∧
        (p.1 = x ∨ p.1 = x + w - 1 ∨ p.2 = y ∨ p.2 = y + h - 1) := by
  unfold outlinePoints
  split
  · next hempty =>
    simp only [List.not_mem_nil, false_iff]
    omega
  · next hfull =>
    have hw : x ≤ x + w - 1 := by omega
    have hh : y ≤ y + h - 1 := by omega
    simp only [List.mem_append, mem_linePoints_horizontal hw, mem_linePoints_vertical hh]
    omega

/-- `DrawText` is one pass of `Plot` over the outlines of its glyphs (R120, R133, R134). -/
theorem drawText_eq (c : Cfg) (x y : Int) (gs : Nat) (k : Colour) (bytes : List Byte) (m : Memory) :
    drawText c x y gs k bytes m =
      Memory.plotAll c k
        ((glyphOrigins c x gs bytes x y).flatMap fun o => outlinePoints o.1 o.2 (gs - 2) (gs - 2)) m := by
  rw [drawText]
  induction glyphOrigins c x gs bytes x y generalizing m with
  | nil => rfl
  | cons o os ih =>
    rw [List.foldl_cons, ih, List.flatMap_cons, Memory.plotAll_append, drawGlyph, drawRect, outlineRect_eq]

/-- Settles O30: all the outlines are one list of plotted points. -/
theorem textDrawsAnOutlinePerGlyph : Obligations.TextDrawsAnOutlinePerGlyph := by
  intro s x y gs k bytes hd hfb hne hgs
  refine ⟨_, exec_text hd hne hgs, rfl, ?pixels, ?beyond⟩
  case pixels =>
    intro px py hp
    dsimp only
    rw [drawText_eq, Memory.pixel_plotAll _ hfb.1 (px, py) hp]
    refine if_congr ?_ rfl rfl
    simp only [List.mem_flatMap, mem_outlinePoints]
  case beyond =>
    intro i hi
    have hform := drawText_keepsForm s.cfg x y gs k bytes s.fb hfb.1 hfb.2
    rw [Memory.read_beyond hform.2 hi, Memory.read_beyond hfb.2 hi]

end Sys2Proof.Machine
end

section
/-! PROOFS of the family `40_framebuffer_ops.md`: the state gate of the six drawing operations (R100), `CLEAR` (R101),
and `SETPX` and `GETPX`, each with one equation for coordinates on the panel and one for coordinates off it (R102, R103,
R105, R106). -/

namespace Sys2Proof.Machine

/-! What each drawing operation does past the gate. -/

section
variable {s : State} {x y : Int}

theorem exec_clear (hd : s.drv ≠ .uninitialized) :
    exec .clear s = .next { s with fb := Memory.fillLight s.cfg.fbBytes s.fb, status := .ok } := by
  rw [exec, execClear, gateFramebuffer_initialized hd]
  rfl

theorem exec_setpx (k : Colour) (hd : s.drv ≠ .uninitialized) (hin : inRange s.cfg x y = true) :
    exec (.setpx x y k) s = .next { s with fb := Memory.plot s.cfg k s.fb (x, y), status := .ok } := by
  rw [exec, execSetpx, gateFramebuffer_initialized hd, if_pos hin]
  rfl

theorem exec_setpx_off (k : Colour) (hd : s.drv ≠ .uninitialized) (hout : ¬ inRange s.cfg x y = true) :
    exec (.setpx x y k) s = .next { s with status := .invalidParameter } := by
  rw [exec, execSetpx, gateFramebuffer_initialized hd, if_neg hout]
  rfl

theorem exec_getpx (hd : s.drv ≠ .uninitialized) (hin : inRange s.cfg x y = true) :
    exec (.getpx x y) s = .next { s with result := Memory.pixel s.cfg s.fb x y, status := .ok } := by
  rw [exec, execGetpx, gateFramebuffer_initialized hd, if_pos hin]
  rfl

theorem exec_getpx_off (hd : s.drv ≠ .uninitialized) (hout : ¬ inRange s.cfg x y = true) :
    exec (.getpx x y) s = .next { s with result := 0xFF#8, status := .invalidParameter } := by
  rw [exec, execGetpx, gateFramebuffer_initialized hd, if_neg hout]
  rfl

theorem exec_line (x0 y0 x1 y1 : Int) (k : Colour) (hd : s.drv ≠ .uninitialized) :
    exec (.line x0 y0 x1 y1 k) s = .next { s with fb := drawLine s.cfg x0 y0 x1 y1 k s.fb, status := .ok } := by
  rw [exec, execLine, gateFramebuffer_initialized hd]
  rfl

theorem exec_rect (x y : Int) (w h : Nat) (k : Colour) (mode : FillMode) (hd : s.drv ≠ .uninitialized) :
    exec (.rect x y w h k mode) s = .next { s with fb := drawRect s.cfg x y w h k mode s.fb, status := .ok } := by
  rw [exec, execRect, gateFramebuffer_initialized hd]
  rfl

/-- A `TEXT` with no bytes, or with glyphs too small for an outline, ends with `InvalidParameter` (R132). -/
theorem exec_text_invalid {gs : Nat} {bytes : List Byte} (k : Colour) (hd : s.drv ≠ .uninitialized)
    (hbad : bytes = [] ∨ gs < 3) :
    exec (.text x y gs k bytes) s = .next { s with status := .invalidParameter } := by
  rw [exec, execText, gateFramebuffer_initialized hd, if_pos hbad]
  rfl

end

/-! `CLEAR`. -/

/-- Settles O13. -/
theorem clearMakesEveryByteLight : Obligations.ClearMakesEveryByteLight := by
  intro s
  refine ⟨fun hd => exec_uninitialized hd rfl nofun, fun hd hfb => ?_⟩
  exact ⟨_, exec_clear hd, rfl, Memory.read_fillLight hfb.1 s.cfg.fbBytes⟩

/-! `SETPX` and `GETPX`. -/

/-- The complement that darkens a pixel, as R102 writes it. -/
theorem complement_eq_sub (m : Byte) : ~~~m = 0xFF#8 - m :=
  (BitVec.allOnes_sub_eq_not m).symm

theorem paintBits_eq (k : Colour) (m b : Byte) :
    paintBits k m b = (match k with | .light => b ||| m | .dark => b &&& (0xFF#8 - m)) := by
  cases k with
  | light => rfl
  | dark => rw [paintBits, complement_eq_sub]

theorem Memory.read_plot_self {c : Cfg} {k : Colour} {m : Memory} (hm : m.wf = true) {x y : Int}
    (hin : inRange c x y = true) :
    (Memory.plot c k m (x, y)).read (byteIndex c x y) = paintBits k (pixelMask x) (m.read (byteIndex c x y)) := by
  rw [Memory.read_plot hm, if_pos ⟨hin, rfl⟩]

theorem Memory.read_plot_other {c : Cfg} {k : Colour} {m : Memory} (hm : m.wf = true) {x y : Int} {j : Nat}
    (hj : j ≠ byteIndex c x y) : (Memory.plot c k m (x, y)).read j = m.read j := by
  rw [Memory.read_plot hm, if_neg fun h => hj h.2]

/-- Settles O14. -/
theorem setpxPaintsOnePixel : Obligations.SetpxPaintsOnePixel := by
  intro s x y k i m
  refine ⟨?gated, ?off, ?on⟩
  case gated => exact fun hd => exec_uninitialized hd rfl nofun
  case off => exact fun hd hout => exec_setpx_off k hd (mt inRange_iff.1 hout)
  case on =>
    intro hd hfb hx hxW hy hyH
    have hin : inRange s.cfg x y = true := inRange_iff.2 ⟨hx, hxW, hy, hyH⟩
    have hbyte := (Memory.read_plot_self (k := k) hfb.1 hin).trans (paintBits_eq k _ _)
    exact ⟨_, exec_setpx k hd hin, rfl, hbyte, fun j => Memory.read_plot_other hfb.1⟩

/-- Settles O17: both reads are of the plotted memory, whose pixels `Memory.pixel_plot` gives. -/
theorem setThenGetReturnsTheColour : Obligations.SetThenGetReturnsTheColour := by
  intro s x y k hd hfb hin
  refine ⟨_, exec_setpx k hd hin, ⟨_, exec_getpx hd hin, ?written⟩, fun x' y' hin' hne => ?other⟩
  case written =>
    have hpixel := Memory.pixel_plot (k := k) hfb.1 (x, y) (x, y) hin
    rw [if_pos rfl] at hpixel
    dsimp only
    rw [hpixel]
    cases k <;> rfl
  case other =>
    have hpixel := Memory.pixel_plot (k := k) hfb.1 (x, y) (x', y') hin'
    rw [if_neg hne] at hpixel
    exact ⟨_, _, exec_getpx hd hin', exec_getpx hd hin', hpixel⟩

/-- Settles O15. -/
theorem offPanelAccessesAreRejected : Obligations.OffPanelAccessesAreRejected := by
  intro s x y k hd hout
  have hout' : ¬ inRange s.cfg x y = true := mt inRange_iff.1 hout
  exact ⟨exec_setpx_off k hd hout', exec_getpx_off hd hout'⟩

/-- Settles O16. -/
theorem getpxReturnsTheStoredBit : Obligations.GetpxReturnsTheStoredBit := by
  intro s x y
  refine ⟨?gated, ?off, ?on⟩
  case gated => exact fun hd => exec_uninitialized hd rfl nofun
  case off => exact fun hd hout => exec_getpx_off hd (mt inRange_iff.1 hout)
  case on => exact fun hd hx hxW hy hyH => exec_getpx hd (inRange_iff.2 ⟨hx, hxW, hy, hyH⟩)

/-! The state gate. -/

/-- Settles O12: `exec_uninitialized` refuses all six alike; past the gate only `SETPX`, `GETPX` and `TEXT` check their
operands. -/
theorem uninitializedGate : Obligations.UninitializedGate := by
  intro s i hi
  have hgated : i.isHostOp = true ∧ i ≠ .init := by
    obtain rfl | ⟨_, _, _, rfl⟩ | ⟨_, _, rfl⟩ | ⟨_, _, _, _, _, rfl⟩ | ⟨_, _, _, _, _, _, rfl⟩ |
      ⟨_, _, _, _, _, rfl⟩ := hi <;> exact ⟨rfl, nofun⟩
  refine ⟨fun hd => exec_uninitialized hd hgated.1 hgated.2, fun hd => ?_⟩
  obtain rfl | ⟨x, y, k, rfl⟩ | ⟨x, y, rfl⟩ | ⟨x0, y0, x1, y1, k, rfl⟩ | ⟨x, y, w, h, k, mode, rfl⟩ |
    ⟨x, y, gs, k, bytes, rfl⟩ := hi
  · exact ⟨_, exec_clear hd, .inl rfl⟩
  · by_cases hin : inRange s.cfg x y = true
    · exact ⟨_, exec_setpx k hd hin, .inl rfl⟩
    · exact ⟨_, exec_setpx_off k hd hin, .inr rfl⟩
  · by_cases hin : inRange s.cfg x y = true
    · exact ⟨_, exec_getpx hd hin, .inl rfl⟩
    · exact ⟨_, exec_getpx_off hd hin, .inr rfl⟩
  · exact ⟨_, exec_line x0 y0 x1 y1 k hd, .inl rfl⟩
  · exact ⟨_, exec_rect x y w h k mode hd, .inl rfl⟩
  · by_cases hbad : bytes = [] ∨ gs < 3
    · exact ⟨_, exec_text_invalid k hd hbad, .inr rfl⟩
    · obtain ⟨hne, hgs⟩ := not_or.1 hbad
      exact ⟨_, exec_text hd hne (Nat.le_of_not_lt hgs), .inl rfl⟩

end Sys2Proof.Machine
end

section
/-! PROOFS of the family `41_rasterizer_ops.md`. Lines: one closed form for the points the Bresenham loop visits
(`linePoints_eq_idealPoint`), from which the laws of R125 follow. Rectangles: `DrawRect` in either mode is `Plot` at a list
of points, so that what it colours is membership in that list. `TEXT`: the operand checks of R132. -/

namespace Sys2Proof.Machine

/-! Offsets from the first endpoint. -/

/-- How far along an axis of extent `d` the `k`-th point of a line of `m` steps lies: `k * d / m` rounded to nearest, a tie
to the smaller. -/
def idealOffset (m d k : Nat) : Nat := (2 * k * d + m - 1) / (2 * m)

section
variable {m d e k o : Nat}

/-- The rounding without the division: `idealOffset` is at most half a pixel off, and rounds a tie down. -/
theorem idealOffset_eq_iff (hm : 0 < m) :
    idealOffset m d k = o ↔ 2 * m * o < 2 * k * d + m ∧ 2 * k * d + m ≤ 2 * m * (o + 1) := by
  have hnext : 2 * m * (o + 1) = 2 * m * o + 2 * m := by ring
  rw [idealOffset, Nat.div_eq_iff (by omega), hnext, mul_comm o]
  omega

theorem idealOffset_bounds (hm : 0 < m) (d k : Nat) :
    2 * m * idealOffset m d k < 2 * k * d + m ∧ 2 * k * d + m ≤ 2 * m * (idealOffset m d k + 1) :=
  (idealOffset_eq_iff hm).1 rfl

/-- Along the major axis every step is one pixel. -/
theorem idealOffset_major (hm : 0 < m) (k : Nat) : idealOffset m m k = k :=
  (idealOffset_eq_iff hm).2 ⟨by linarith, by linarith⟩

theorem idealOffset_start (m d : Nat) : idealOffset m d 0 = 0 := by
  rw [idealOffset, mul_zero, zero_mul, zero_add, Nat.div_eq_zero_iff]
  omega

theorem idealOffset_end (hd : d ≤ m) : idealOffset m d m = d := by
  rcases Nat.eq_zero_or_pos m with rfl | hm
  · rw [Nat.le_zero.1 hd, idealOffset_start]
  · exact (idealOffset_eq_iff hm).2 ⟨by linarith, by linarith⟩

/-- A step moves along an axis exactly when the ideal line has passed the middle of the next pixel. -/
theorem idealOffset_succ (hm : 0 < m) (hd : d ≤ m) (k : Nat) :
    idealOffset m d (k + 1) =
      if (2 * idealOffset m d k + 1) * m < 2 * (k + 1) * d then idealOffset m d k + 1 else idealOffset m d k := by
  obtain ⟨hlow, hhigh⟩ := idealOffset_bounds hm d k
  rw [idealOffset_eq_iff hm]
  split
  · exact ⟨by linarith, by linarith⟩
  · exact ⟨by linarith, by linarith⟩

/-- On a line of `max d e` steps the error term's test for the axis of extent `d` is the test of `idealOffset_succ`; along
the major axis both always succeed. -/
theorem idealOffset_step_iff (hm : 0 < m) (hmax : m = max d e) (k : Nat) :
    (2 * idealOffset m d k + 1) * e < 2 * (idealOffset m e k + 1) * d ↔
      (2 * idealOffset m d k + 1) * m < 2 * (k + 1) * d := by
  rcases le_total e d with hed | hde
  · obtain rfl : m = d := hmax.trans (max_eq_left hed)
    obtain ⟨hlow, hhigh⟩ := idealOffset_bounds hm e k
    rw [idealOffset_major hm]
    have hmoves : (2 * k + 1) * e < 2 * (idealOffset m e k + 1) * m := by
      rcases hed.lt_or_eq with hlt | rfl
      · linarith
      · rw [idealOffset_major hm]; linarith
    exact iff_of_true hmoves (by linarith)
  · obtain rfl : m = e := hmax.trans (max_eq_right hde)
    rw [idealOffset_major hm]

end

/-! The loop. -/

/-- The `k`-th point of the line from `(xa, ya)` over `dx` columns to the right and `dy` rows in the direction `sy`. -/
def idealPoint (xa ya sy : Int) (dx dy k : Nat) : Point :=
  (xa + idealOffset (max dx dy) dx k, ya + sy * idealOffset (max dx dy) dy k)

/-- The loop's error term at that point (R124). -/
def idealErr (dx dy k : Nat) : Int :=
  (idealOffset (max dx dy) dy k + 1) * dx - (idealOffset (max dx dy) dx k + 1) * dy

section
variable {xa ya sy : Int} {dx dy : Nat}

theorem idealPoint_start (xa ya sy : Int) (dx dy : Nat) : idealPoint xa ya sy dx dy 0 = (xa, ya) := by
  simp [idealPoint, idealOffset_start]

theorem idealPoint_end (xa ya sy : Int) (dx dy : Nat) :
    idealPoint xa ya sy dx dy (max dx dy) = (xa + dx, ya + sy * dy) := by
  rw [idealPoint, idealOffset_end (le_max_left dx dy), idealOffset_end (le_max_right dx dy)]

theorem idealErr_start (dx dy : Nat) : idealErr dx dy 0 = dx - dy := by
  simp [idealErr, idealOffset_start]

/-- On a flat line the column counts the steps. -/
theorem idealPoint_flat (hle : dy ≤ dx) (hx : 0 < dx) (k : Nat) :
    idealPoint xa ya sy dx dy k = (xa + (k : Int), ya + sy * idealOffset dx dy k) := by
  rw [idealPoint, max_eq_left hle, idealOffset_major hx]

/-- On a steep line the row counts the steps. -/
theorem idealPoint_steep (hle : dx ≤ dy) (hy : 0 < dy) (k : Nat) :
    idealPoint xa ya sy dx dy k = (xa + idealOffset dy dx k, ya + sy * (k : Int)) := by
  rw [idealPoint, max_eq_right hle, idealOffset_major hy]

/-- No point comes twice: the major coordinate counts the steps. -/
theorem idealPoint_injective (hsy : sy ≠ 0) (hm : 0 < max dx dy) : Function.Injective (idealPoint xa ya sy dx dy) := by
  intro j k h
  rcases le_total dy dx with hle | hle
  · rw [idealPoint_flat hle (by omega), idealPoint_flat hle (by omega)] at h
    exact Nat.cast_injective (add_right_injective xa (Prod.ext_iff.1 h).1)
  · rw [idealPoint_steep hle (by omega), idealPoint_steep hle (by omega)] at h
    exact Nat.cast_injective (mul_right_injective₀ hsy (add_right_injective ya (Prod.ext_iff.1 h).2))

theorem idealErr_moves_x (hm : 0 < max dx dy) (k : Nat) :
    -(dy : Int) < 2 * idealErr dx dy k ↔
      (2 * idealOffset (max dx dy) dx k + 1) * max dx dy < 2 * (k + 1) * dx := by
  rw [← idealOffset_step_iff hm rfl, ← Nat.cast_lt (α := Int), idealErr]
  push_cast
  constructor <;> intro h <;> linarith

theorem idealErr_moves_y (hm : 0 < max dx dy) (k : Nat) :
    2 * idealErr dx dy k < dx ↔
      (2 * idealOffset (max dx dy) dy k + 1) * max dx dy < 2 * (k + 1) * dy := by
  rw [← idealOffset_step_iff hm (max_comm dx dy), ← Nat.cast_lt (α := Int), idealErr]
  push_cast
  constructor <;> intro h <;> linarith

/-! What one round makes of the loop's three variables. -/

theorem idealPoint_fst_succ (hm : 0 < max dx dy) (k : Nat) :
    (idealPoint xa ya sy dx dy (k + 1)).1 =
      if -(dy : Int) < 2 * idealErr dx dy k then (idealPoint xa ya sy dx dy k).1 + 1
      else (idealPoint xa ya sy dx dy k).1 := by
  simp only [idealErr_moves_x hm, idealPoint, idealOffset_succ hm (le_max_left dx dy)]
  split <;> push_cast <;> ring

theorem idealPoint_snd_succ (hm : 0 < max dx dy) (k : Nat) :
    (idealPoint xa ya sy dx dy (k + 1)).2 =
      if 2 * idealErr dx dy k < dx then (idealPoint xa ya sy dx dy k).2 + sy
      else (idealPoint xa ya sy dx dy k).2 := by
  simp only [idealErr_moves_y hm, idealPoint, idealOffset_succ hm (le_max_right dx dy)]
  split <;> push_cast <;> ring

theorem idealErr_succ (hm : 0 < max dx dy) (k : Nat) :
    idealErr dx dy (k + 1) =
      if 2 * idealErr dx dy k < dx then
        (if -(dy : Int) < 2 * idealErr dx dy k then idealErr dx dy k - dy else idealErr dx dy k) + dx
      else if -(dy : Int) < 2 * idealErr dx dy k then idealErr dx dy k - dy else idealErr dx dy k := by
  simp only [idealErr_moves_x hm, idealErr_moves_y hm]
  simp only [idealErr, idealOffset_succ hm (le_max_left dx dy), idealOffset_succ hm (le_max_right dx dy)]
  split_ifs <;> push_cast <;> ring

/-- One round of the loop before its last goes to the next ideal point, with the error term of that point. -/
theorem bresLoop_round (hsy : sy ≠ 0) {k : Nat} (hk : k < max dx dy) (n : Nat) :
    bresLoop dx dy sy (xa + dx) (ya + sy * dy) (n + 1) (idealPoint xa ya sy dx dy k).1 (idealPoint xa ya sy dx dy k).2
        (idealErr dx dy k) =
      idealPoint xa ya sy dx dy k ::
        bresLoop dx dy sy (xa + dx) (ya + sy * dy) n (idealPoint xa ya sy dx dy (k + 1)).1
          (idealPoint xa ya sy dx dy (k + 1)).2 (idealErr dx dy (k + 1)) := by
  have hm : 0 < max dx dy := by omega
  have hnotEnd : ¬ ((idealPoint xa ya sy dx dy k).1 = xa + dx ∧ (idealPoint xa ya sy dx dy k).2 = ya + sy * dy) := by
    rw [← Prod.mk.injEq, ← idealPoint_end]
    exact fun h => hk.ne (idealPoint_injective hsy hm h)
  rw [bresLoop, if_neg hnotEnd, idealPoint_fst_succ hm, idealPoint_snd_succ hm, idealErr_succ hm]

/-- A step of the line moves by at most one pixel along either axis, and by one along the major axis (R125 (c)). -/
theorem idealPoint_step (hsy : sy ≠ 0) {k : Nat} (hk : k < max dx dy) {p q : Point}
    (hp : idealPoint xa ya sy dx dy k = p) (hq : idealPoint xa ya sy dx dy (k + 1) = q) :
    (q.1 = p.1 ∨ q.1 = p.1 + 1) ∧ (q.2 = p.2 ∨ q.2 = p.2 + sy) ∧ q ≠ p ∧
      (dy ≤ dx → q.1 = p.1 + 1) ∧ (dx ≤ dy → q.2 = p.2 + sy) := by
  subst hp hq
  have hm : 0 < max dx dy := by omega
  refine ⟨?column, ?row, fun h => ?same, fun hle => ?flat, fun hle => ?steep⟩
  case column => rw [idealPoint_fst_succ hm]; split <;> simp
  case row => rw [idealPoint_snd_succ hm]; split <;> simp
  case same => exact absurd (idealPoint_injective hsy hm h) (Nat.succ_ne_self k)
  case flat =>
    rw [idealPoint_flat hle (by omega), idealPoint_flat hle (by omega)]
    push_cast; ring
  case steep =>
    rw [idealPoint_steep hle (by omega), idealPoint_steep hle (by omega)]
    push_cast; ring

/-- From its `k`-th point the loop visits the ideal points up to the last and stops there. -/
theorem bresLoop_idealPoint (hsy : sy ≠ 0) {r k n : Nat} (hr : k + r = max dx dy) (hn : r < n) :
    bresLoop dx dy sy (xa + dx) (ya + sy * dy) n (idealPoint xa ya sy dx dy k).1 (idealPoint xa ya sy dx dy k).2
        (idealErr dx dy k) =
      (List.range (r + 1)).map fun i => idealPoint xa ya sy dx dy (k + i) := by
  obtain ⟨n, rfl⟩ := Nat.exists_eq_add_one_of_ne_zero (Nat.ne_zero_of_lt hn)
  induction r generalizing k n with
  | zero =>
    obtain rfl : k = max dx dy := hr
    rw [idealPoint_end, bresLoop, if_pos ⟨rfl, rfl⟩]
    simp [idealPoint_end]
  | succ r ih =>
    obtain ⟨n, rfl⟩ := Nat.exists_eq_add_one_of_ne_zero (show n ≠ 0 by omega)
    rw [bresLoop_round hsy (by omega), ih (by omega) n (by omega), List.range_succ_eq_map (n := r + 1), List.map_cons,
      List.map_map]
    simp only [Function.comp_def, Nat.add_zero, Nat.succ_eq_add_one, Nat.add_assoc, Nat.add_comm 1]

end

/-! The points of a line. -/

/-- The direction in which `Bres` changes `y` (R124). -/
def stepY (ya yb : Int) : Int := if ya ≤ yb then 1 else -1

theorem stepY_ne_zero (ya yb : Int) : stepY ya yb ≠ 0 := by
  unfold stepY
  split <;> decide

theorem stepY_mul_natAbs (ya yb : Int) : ya + stepY ya yb * (yb - ya).natAbs = yb := by
  unfold stepY
  split <;> omega

/-- The endpoints are in the order that R123 gives them. -/
def Canonical (xa ya xb yb : Int) : Prop := ¬ (xb < xa ∨ (xa = xb ∧ yb < ya))

theorem linePoints_eq_bresPoints {xa ya xb yb : Int} (h : Canonical xa ya xb yb) :
    linePoints xa ya xb yb = bresPoints xa ya xb yb :=
  if_neg h

/-- A line has the same points from either end, in the same order (R123, R125 (e)). -/
theorem linePoints_comm (xa ya xb yb : Int) : linePoints xa ya xb yb = linePoints xb yb xa ya := by
  by_cases hab : xb < xa ∨ (xa = xb ∧ yb < ya)
  · rw [linePoints_eq_bresPoints (xa := xb) (by unfold Canonical; omega), linePoints, if_pos hab]
  · by_cases hba : xa < xb ∨ (xb = xa ∧ ya < yb)
    · rw [linePoints_eq_bresPoints hab, linePoints, if_pos hba]
    · obtain rfl : xa = xb := by omega
      obtain rfl : ya = yb := by omega
      rfl

/-- The closed form of a line: its points are the ideal points, in order (R124). -/
theorem linePoints_eq_idealPoint {xa ya xb yb : Int} (h : Canonical xa ya xb yb) :
    linePoints xa ya xb yb =
      (List.range (max (xb - xa).natAbs (yb - ya).natAbs + 1)).map
        (idealPoint xa ya (stepY ya yb) (xb - xa).natAbs (yb - ya).natAbs) := by
  have hx : xb - xa = (xb - xa).natAbs := by unfold Canonical at h; omega
  have hxb : xa + (xb - xa).natAbs = xb := by omega
  have hrounds : max (xb - xa).natAbs (yb - ya).natAbs <
      ((xb - xa).natAbs + (yb - ya).natAbs : Int).toNat + 1 := by omega
  have hloop := bresLoop_idealPoint (xa := xa) (ya := ya) (stepY_ne_zero ya yb) (Nat.zero_add _) hrounds
  rw [idealPoint_start, idealErr_start, hxb, stepY_mul_natAbs] at hloop
  simp only [Nat.zero_add] at hloop
  rw [linePoints_eq_bresPoints h, ← hloop, bresPoints, ← hx]
  rfl

/-- The same for endpoints in either order, with the choice of the first one written as the statements write it; `dx` columns
lead from it to the other. -/
theorem linePoints_eq_map (x0 y0 x1 y1 : Int) :
    let swapped := x1 < x0 ∨ (x0 = x1 ∧ y1 < y0)
    let xa := if swapped then x1 else x0
    let ya := if swapped then y1 else y0
    let xb := if swapped then x0 else x1
    let yb := if swapped then y0 else y1
    let dx := (xb - xa).natAbs
    let dy := (yb - ya).natAbs
    linePoints x0 y0 x1 y1 = (List.range (max dx dy + 1)).map (idealPoint xa ya (stepY ya yb) dx dy) ∧
      xa + dx = xb := by
  by_cases hswap : x1 < x0 ∨ (x0 = x1 ∧ y1 < y0)
  · simp only [hswap, if_true]
    rw [linePoints_comm]
    exact ⟨linePoints_eq_idealPoint (by unfold Canonical; omega), by omega⟩
  · simp only [hswap, if_false]
    exact ⟨linePoints_eq_idealPoint hswap, by omega⟩

/-- Settles O60: the offset along the major axis is `k`, and `idealOffset` is the quotient the statement names. -/
theorem linePointsRoundTheIdealLine : Obligations.LinePointsRoundTheIdealLine := by
  intro x0 y0 x1 y1 P swapped xa ya xb yb sy dx dy
  obtain ⟨hP, -⟩ : P = (List.range (max dx dy + 1)).map (idealPoint xa ya sy dx dy) ∧ xa + dx = xb :=
    linePoints_eq_map x0 y0 x1 y1
  refine ⟨fun hx hy => ?point, fun hx hle => ?flat, fun hy hle => ?steep⟩
  case point => rw [hP, hx, hy]; simp [idealPoint_start]
  case flat =>
    rw [hP, max_eq_left hle]
    exact List.map_congr_left fun k _ => idealPoint_flat hle hx k
  case steep =>
    rw [hP, max_eq_right hle]
    exact List.map_congr_left fun k _ => idealPoint_steep hle hy k

/-- Settles O23: the walk is read off the closed form. -/
theorem linePointsAreAUnitStepWalk : Obligations.LinePointsAreAUnitStepWalk := by
  intro x0 y0 x1 y1 P swapped xa ya xb yb sy dx dy
  have hsy : sy ≠ 0 := stepY_ne_zero ya yb
  have hyb : ya + sy * dy = yb := stepY_mul_natAbs ya yb
  obtain ⟨hP, hxb⟩ : P = (List.range (max dx dy + 1)).map (idealPoint xa ya sy dx dy) ∧ xa + dx = xb :=
    linePoints_eq_map x0 y0 x1 y1
  rw [hP]
  refine ⟨?first, ?last, ?length, ?distinct, fun n p q hp hq => ?step⟩
  case first => simp [List.range_succ_eq_map, idealPoint_start]
  case last => simp [List.range_succ, idealPoint_end, hxb, hyb]
  case length => simp
  case distinct =>
    rcases Nat.eq_zero_or_pos (max dx dy) with hzero | hpos
    · simp [hzero]
    · exact List.nodup_range.map (idealPoint_injective hsy hpos)
  case step =>
    simp only [List.getElem?_map, Option.map_eq_some_iff, List.getElem?_eq_some_iff, List.getElem_range] at hp hq
    obtain ⟨_, ⟨-, rfl⟩, hp⟩ := hp
    obtain ⟨_, ⟨hn, rfl⟩, hq⟩ := hq
    rw [List.length_range] at hn
    exact idealPoint_step hsy (by omega) hp hq

/-- A diagonal line of `n + 1` points, downward or upward (R125 (d)). -/
theorem linePoints_diagonal (x y : Int) {sy : Int} (hsy : sy = 1 ∨ sy = -1) (n : Nat) :
    linePoints x y (x + n) (y + sy * n) =
      (List.range (n + 1)).map fun i : Nat => (x + (i : Int), y + sy * (i : Int)) := by
  rcases Nat.eq_zero_or_pos n with rfl | hn
  · simpa using linePoints_horizontal x y 0
  · have hstep : stepY y (y + sy * n) = sy := by
      unfold stepY
      rcases hsy with rfl | rfl <;> split <;> omega
    have hdx : (x + n - x).natAbs = n := by omega
    have hdy : (y + sy * n - y).natAbs = n := by rcases hsy with rfl | rfl <;> omega
    rw [linePoints_eq_idealPoint (by unfold Canonical; omega), hstep, hdx, hdy, max_self]
    refine List.map_congr_left fun i _ => ?_
    rw [idealPoint_flat (le_refl n) hn, idealOffset_major hn]

/-- Settles O24. -/
theorem axisAndDiagonalLinesAreExact : Obligations.AxisAndDiagonalLinesAreExact := by
  intro x y n
  refine ⟨linePoints_horizontal x y n, linePoints_vertical x y n, ?down, ?up⟩
  case down => simpa only [one_mul] using linePoints_diagonal x y (.inl rfl) n
  case up => simpa only [neg_one_mul, ← sub_eq_add_neg] using linePoints_diagonal x y (.inr rfl) n

/-- Settles O22. -/
theorem lineIsSymmetricInDirection : Obligations.LineIsSymmetricInDirection := by
  intro s x0 y0 x1 y1 k
  have hdraw : drawLine s.cfg x0 y0 x1 y1 k s.fb = drawLine s.cfg x1 y1 x0 y0 k s.fb := by
    rw [drawLine, drawLine, linePoints_comm]
  by_cases hd : s.drv = .uninitialized
  · have hgated (xa ya xb yb : Int) : exec (.line xa ya xb yb k) s = raise .notInitialized s :=
      exec_uninitialized hd rfl nofun
    rw [hgated, hgated]
  · rw [exec_line x0 y0 x1 y1 k hd, exec_line x1 y1 x0 y0 k hd, hdraw]

/-! What an operation colours that is `Plot` at a list of points. -/

/-- An operation whose whole effect is `Plot` at a list of points colours those of them on the panel and nothing else. -/
theorem colours_of_plotAll {s : State} {i : Instr} {k : Colour} {ps : List Point} (hfb : s.FbOk)
    (hexec : exec i s = .next { s with fb := Memory.plotAll s.cfg k ps s.fb, status := .ok })
    (inside : Int → Int → Prop) [∀ x y, Decidable (inside x y)] (hmem : ∀ p : Point, p ∈ ps ↔ inside p.1 p.2) :
    ∃ t, exec i s = .next t ∧ t = { s with fb := t.fb, status := .ok } ∧
      (∀ x y, inRange s.cfg x y = true →
        Memory.pixel s.cfg t.fb x y = if inside x y then colourByte k else Memory.pixel s.cfg s.fb x y) ∧
      ∀ i, s.cfg.fbBytes ≤ i → t.fb.read i = s.fb.read i := by
  obtain ⟨hwf, hwithin⟩ := hfb
  refine ⟨_, hexec, rfl, fun x y hin => ?pixels, fun i hi => ?beyond⟩
  case pixels => exact (Memory.pixel_plotAll ps hwf (x, y) hin).trans (if_congr (hmem (x, y)) rfl rfl)
  case beyond => rw [Memory.read_beyond (Memory.plotAll_within ps hwithin) hi, Memory.read_beyond hwithin hi]

/-- The order and the repetition of the points cannot be observed. -/
theorem plotAll_congr {c : Cfg} {k : Colour} {ps qs : List Point} {m : Memory} (hwf : m.wf = true)
    (hwithin : m.within c.fbBytes = true) (hmem : ∀ p, p ∈ ps ↔ p ∈ qs) :
    Memory.plotAll c k ps m = Memory.plotAll c k qs m := by
  refine Memory.ext_of_pixels (Memory.plotAll_wf ps hwf) (Memory.plotAll_wf qs hwf)
    (Memory.plotAll_within ps hwithin) (Memory.plotAll_within qs hwithin) fun p hp => ?_
  rw [Memory.pixel_plotAll ps hwf p hp, Memory.pixel_plotAll qs hwf p hp]
  exact if_congr (hmem p) rfl rfl

/-- Settles O21. -/
theorem linePaintsItsPoints : Obligations.LinePaintsItsPoints := fun _ x0 y0 x1 y1 k hd hfb =>
  colours_of_plotAll hfb (exec_line x0 y0 x1 y1 k hd) (fun x y => (x, y) ∈ linePoints x0 y0 x1 y1) fun _ => Iff.rfl

/-! Filled rectangles. -/

/-- One more integer is in the clipped range when it is in the bounds. -/
theorem clippedRange_succ (a : Int) (n bound : Nat) :
    clippedRange a (n + 1) bound =
      clippedRange a n bound ++ if 0 ≤ a + n ∧ a + n < bound then [a + (n : Int)] else [] := by
  unfold clippedRange
  split
  · next hin =>
    obtain ⟨hlow, hhigh⟩ := hin
    have hcount : (min (a + (n + 1 : Nat)) bound - max a 0).toNat = (min (a + n) bound - max a 0).toNat + 1 := by omega
    have hlast : max a 0 + ((min (a + n) bound - max a 0).toNat : Int) = a + n := by omega
    rw [hcount, List.range_succ, List.map_append, List.map_singleton, hlast]
  · next hout =>
    have hcount : (min (a + (n + 1 : Nat)) bound - max a 0).toNat = (min (a + n) bound - max a 0).toNat := by omega
    rw [hcount, List.append_nil]

/-- A loop whose rounds out of the bounds do nothing is the loop over the clipped range (R127). -/
theorem foldl_clippedRange {a : Int} {bound : Nat} {f : Memory → Int → Memory}
    (hidle : ∀ (m : Memory) (z : Int), ¬ (0 ≤ z ∧ z < bound) → f m z = m) (n : Nat) (m : Memory) :
    (clippedRange a n bound).foldl f m = (List.range n).foldl (fun m (i : Nat) => f m (a + (i : Int))) m := by
  induction n with
  | zero =>
    have hempty : (min (a + (0 : Nat)) bound - max a 0).toNat = 0 := by omega
    rw [clippedRange, hempty]
    rfl
  | succ n ih =>
    rw [clippedRange_succ, List.foldl_append, ih, List.range_succ, List.foldl_append, List.foldl_cons, List.foldl_nil]
    split
    · rfl
    · next hout => exact (hidle _ _ hout).symm

/-- One row of the clipped rectangle is the rule's loop over the columns; a row off the panel is none. -/
theorem plotAll_clippedRow (c : Cfg) (k : Colour) (x row : Int) (w : Nat) (m : Memory) :
    Memory.plotAll c k ((clippedRange x w c.W).map fun col => (col, row)) m =
      (List.range w).foldl (fun m (i : Nat) => Memory.plot c k m (x + (i : Int), row)) m := by
  rw [Memory.plotAll, List.foldl_map]
  refine foldl_clippedRange (f := fun m col => Memory.plot c k m (col, row)) (fun m col hcol => ?_) w m
  exact Memory.plot_of_not_inRange fun hin => hcol ⟨(inRange_iff.1 hin).1, (inRange_iff.1 hin).2.1⟩

/-- The clipped rectangle is the rule's two loops: rows and columns off the panel are rounds that plot nothing (R127). -/
theorem fillRect_eq_loops (c : Cfg) (x y : Int) (w h : Nat) (k : Colour) (m : Memory) :
    fillRect c x y w h k m =
      (List.range h).foldl
        (fun m (j : Nat) => (List.range w).foldl (fun m (i : Nat) => Memory.plot c k m (x + (i : Int), y + (j : Int))) m)
        m := by
  have hidle : ∀ (m : Memory) (row : Int), ¬ (0 ≤ row ∧ row < c.H) →
      (List.range w).foldl (fun m (i : Nat) => Memory.plot c k m (x + (i : Int), row)) m = m := by
    intro m row hrow
    have hplot (i : Nat) : Memory.plot c k m (x + (i : Int), row) = m := by
      refine Memory.plot_of_not_inRange fun hin => hrow ?_
      obtain ⟨-, -, hlow, hhigh⟩ := inRange_iff.1 hin
      exact ⟨hlow, hhigh⟩
    exact List.foldl_fixed' hplot _
  simp only [fillRect, plotAll_clippedRow]
  exact foldl_clippedRange hidle h m

/-- Settles O26: the statement's loops run over the numbers below `h` and `w` as integers. -/
theorem filledRectIsTheTwoLoops : Obligations.FilledRectIsTheTwoLoops := by
  intro c x y w h k m
  simp only [bind_pure_comp, List.map_eq_map, List.foldl_map]
  exact fillRect_eq_loops c x y w h k m

/-- The points of a filled rectangle, row by row (R127). -/
def areaPoints (x y : Int) (w h : Nat) : List Point :=
  (List.range h).flatMap fun j : Nat => (List.range w).map fun i : Nat => (x + (i : Int), y + (j : Int))

theorem fillRect_eq (c : Cfg) (x y : Int) (w h : Nat) (k : Colour) (m : Memory) :
    fillRect c x y w h k m = Memory.plotAll c k (areaPoints x y w h) m := by
  rw [fillRect_eq_loops, Memory.plotAll, areaPoints, List.foldl_flatMap]
  simp only [List.foldl_map]

theorem mem_areaPoints {x y : Int} {w h : Nat} {p : Point} :
    p ∈ areaPoints x y w h ↔ x ≤ p.1 ∧ p.1 < x + w ∧ y ≤ p.2 ∧ p.2 < y + h := by
  simp only [areaPoints, List.mem_flatMap, List.mem_map, List.mem_range]
  constructor
  · rintro ⟨j, hj, i, hi, rfl⟩
    dsimp only
    omega
  · rintro ⟨hl, hr, ht, hb⟩
    exact ⟨(p.2 - y).toNat, by omega, (p.1 - x).toNat, by omega, Prod.ext (by dsimp only; omega) (by dsimp only; omega)⟩

/-! Both modes. -/

/-- The points that `DrawRect` plots. -/
def rectPoints (x y : Int) (w h : Nat) : FillMode → List Point
  | .filled => areaPoints x y w h
  | .outline => outlinePoints x y w h

theorem drawRect_eq (c : Cfg) (x y : Int) (w h : Nat) (k : Colour) (mode : FillMode) (m : Memory) :
    drawRect c x y w h k mode m = Memory.plotAll c k (rectPoints x y w h mode) m := by
  cases mode with
  | filled => exact fillRect_eq c x y w h k m
  | outline => exact outlineRect_eq c x y w h k m

/-- Past the gate `RECT` is `Plot` at the points of its rectangle (R126). -/
theorem exec_rect_plotAll {s : State} (x y : Int) (w h : Nat) (k : Colour) (mode : FillMode)
    (hd : s.drv ≠ .uninitialized) :
    exec (.rect x y w h k mode) s =
      .next { s with fb := Memory.plotAll s.cfg k (rectPoints x y w h mode) s.fb, status := .ok } := by
  rw [exec_rect x y w h k mode hd, drawRect_eq]

/-- Settles O25. -/
theorem filledRectPaintsItsArea : Obligations.FilledRectPaintsItsArea := fun _ x y w h k hd hfb =>
  colours_of_plotAll hfb (exec_rect_plotAll x y w h k .filled hd)
    (fun px py => x ≤ px ∧ px < x + w ∧ y ≤ py ∧ py < y + h) fun _ => mem_areaPoints

/-- Settles O27. -/
theorem outlineRectPaintsItsPerimeter : Obligations.OutlineRectPaintsItsPerimeter := fun _ x y w h k hd hfb =>
  colours_of_plotAll hfb (exec_rect_plotAll x y w h k .outline hd)
    (fun px py => x ≤ px ∧ px < x + w ∧ y ≤ py ∧ py < y + h ∧ (px = x ∨ px = x + w - 1 ∨ py = y ∨ py = y + h - 1))
    fun _ => mem_outlinePoints

/-- A rectangle with an empty side has no point (R129). -/
theorem rectPoints_empty {w h : Nat} (hempty : w = 0 ∨ h = 0) (x y : Int) (mode : FillMode) :
    rectPoints x y w h mode = [] := by
  refine List.eq_nil_iff_forall_not_mem.2 fun p hp => ?_
  cases mode with
  | filled =>
    obtain ⟨hl, hr, ht, hb⟩ := mem_areaPoints.1 hp
    omega
  | outline =>
    obtain ⟨hl, hr, ht, hb, -⟩ := mem_outlinePoints.1 hp
    omega

/-- A rectangle at most two pixels wide or high is its own perimeter (R129). -/
theorem mem_rectPoints_thin {w h : Nat} (hthin : w ≤ 2 ∨ h ≤ 2) (x y : Int) (p : Point) :
    p ∈ rectPoints x y w h .outline ↔ p ∈ rectPoints x y w h .filled := by
  rw [rectPoints, rectPoints, mem_outlinePoints, mem_areaPoints]
  omega

/-- Settles O28. -/
theorem thinRectsNeedNoFilling : Obligations.ThinRectsNeedNoFilling := by
  intro s x y w h k mode hd hfb
  refine ⟨fun hempty => ?empty, fun hthin => ?thin⟩
  case empty => rw [exec_rect_plotAll x y w h k mode hd, rectPoints_empty hempty, Memory.plotAll_nil]
  case thin =>
    rw [exec_rect_plotAll x y w h k .outline hd, exec_rect_plotAll x y w h k .filled hd,
      plotAll_congr hfb.1 hfb.2 (mem_rectPoints_thin hthin x y)]

/-! The operand checks of `TEXT`. -/

/-- Settles O29: in `Uninitialized` the gate answers first. -/
theorem textChecksItsOperands : Obligations.TextChecksItsOperands := by
  intro s x y gs k bytes hbad
  by_cases hd : s.drv = .uninitialized
  · rw [if_pos hd]
    exact exec_uninitialized hd rfl nofun
  · rw [if_neg hd]
    exact exec_text_invalid k hd (hbad.imp_left List.length_eq_zero_iff.1)

end Sys2Proof.Machine
end

section
/-! PROOFS of the family `42_protocol_ops.md`: the busy wait by its samples (R154), each protocol operation that runs as
one equation for the state it leaves (R157, R160, R166, R167), how many events it appends (R169), the cadence of full
refreshes (R168), and the bus commands as transfers (R192 to R208). -/

namespace Sys2Proof.Machine

/-! The reset pulse and the busy wait. -/

/-- Settles O34. -/
theorem resetPulseIsHighLowHigh : Obligations.ResetPulseIsHighLowHigh :=
  resetPulse_eq

/-- The state in a busy wait after `q` samples that were all high (R154). -/
def highSamples (q : Nat) (s : State) : State :=
  { s with
    out := s.out ++ (List.replicate q [.poll .high, .delay s.cfg.tPollMs]).flatten
    busyIn := s.busyIn.drop q
    pollCount := s.pollCount + q }

section
variable (s : State)

@[simp] theorem highSamples_zero : highSamples 0 s = s := by
  simp [highSamples]

theorem busyAt_highSamples (q n : Nat) : (highSamples q s).busyAt n = s.busyAt (q + n) := by
  simp [State.busyAt, highSamples, Nat.add_assoc]

theorem poll_eq : poll s =
    { s with out := s.out ++ [.poll (s.busyAt 0)], busyIn := s.busyIn.drop 1, pollCount := s.pollCount + 1 } := by
  simp [poll, State.emit, State.advanceBusy]

variable {s}

theorem waitLoop_low {n : Nat} (h : s.busyAt 0 = .low) : waitLoop (n + 1) s = (poll s).setFlags s.flags.waitEnded := by
  simp only [waitLoop, h]

theorem waitLoop_high {n : Nat} (h : s.busyAt 0 = .high) :
    waitLoop (n + 1) s = waitLoop n ((poll s).emit [.delay s.cfg.tPollMs]) := by
  simp only [waitLoop, h]

theorem highSamples_succ {q : Nat} (h : s.busyAt q = .high) :
    (poll (highSamples q s)).emit [.delay s.cfg.tPollMs] = highSamples (q + 1) s := by
  have h0 : (highSamples q s).busyAt 0 = .high := (busyAt_highSamples s q 0).trans h
  rw [poll_eq, h0]
  simp [highSamples, State.emit, List.replicate_succ', Nat.add_assoc]

/-- High samples use up the loop's rounds one by one. -/
theorem waitLoop_highSamples {q : Nat} (h : ∀ j < q, s.busyAt j = .high) (n : Nat) :
    waitLoop (q + n) s = waitLoop n (highSamples q s) := by
  induction q generalizing n with
  | zero => rw [Nat.zero_add, highSamples_zero]
  | succ q ih =>
    have hq : s.busyAt q = .high := h q (Nat.lt_succ_self q)
    have h0 : (highSamples q s).busyAt 0 = .high := (busyAt_highSamples s q 0).trans hq
    calc waitLoop (q + 1 + n) s
        = waitLoop (q + (n + 1)) s := by rw [Nat.add_right_comm, Nat.add_assoc]
      _ = waitLoop (n + 1) (highSamples q s) := ih (fun j hj => h j (Nat.lt_succ_of_lt hj)) (n + 1)
      _ = waitLoop n ((poll (highSamples q s)).emit [.delay s.cfg.tPollMs]) := waitLoop_high h0
      _ = waitLoop n (highSamples (q + 1) s) := by rw [highSamples_succ hq]

end

/-- Settles O35. -/
theorem busyWaitEndsLowOrTimesOut : Obligations.BusyWaitEndsLowOrTimesOut := by
  refine fun s => ⟨fun q hq hhigh hlow => ?ends, fun hhigh => ?timesOut⟩
  case ends =>
    obtain ⟨r, hr⟩ := Nat.exists_eq_add_of_lt hq
    have h0 : (highSamples q s).busyAt 0 = .low := (busyAt_highSamples s q 0).trans hlow
    rw [waitBusy, hr, Nat.add_assoc, waitLoop_highSamples hhigh, waitLoop_low h0, poll_eq, h0]
    simp [highSamples, State.setFlags, Flags.waitEnded, Nat.add_assoc]
  case timesOut =>
    exact waitLoop_highSamples hhigh 0

/-! A protocol operation out of its state (R156). -/

section
variable {s : State}

theorem exec_init_refused (hd : s.drv ≠ .uninitialized) : exec .init s = .next { s with status := .initFailed } :=
  if_neg hd

theorem exec_refresh_refused (mode : RefreshMode) (hd : s.drv ≠ .ready) :
    exec (.refresh mode) s = .next { s with status := .notInitialized } :=
  if_neg hd

theorem exec_sleep_refused (hd : s.drv ≠ .ready) : exec .sleep s = .next { s with status := .notInitialized } :=
  if_neg hd

theorem exec_wakeup_refused (hd : s.drv ≠ .sleeping) : exec .wakeup s = .next { s with status := .notInitialized } :=
  if_neg hd

end

/-- Settles O37. -/
theorem protocolOperationsAreRefusedOutOfState : Obligations.ProtocolOperationsAreRefusedOutOfState :=
  fun _ => ⟨exec_init_refused, exec_refresh_refused, exec_sleep_refused, exec_wakeup_refused⟩

/-! A protocol operation in its state. -/

@[simp] theorem length_lut (c : Cfg) (t : Waveform) : (c.lut t).length = 30 := by
  cases t with
  | fullUpdate => exact c.lutFull_length
  | partialUpdate => exact c.lutPartial_length

theorem dcAfter_lut (c : Cfg) (t : Waveform) : dcAfter (c.lut t) = .driven .high :=
  if_neg (lut_ne_nil c t)

/-- What `INIT` emits after its busy wait (R157). -/
def initEvents (c : Cfg) : List Event :=
  transferEvents c.cmd.swReset [] ++ configurationEvents c ++ transferEvents c.cmd.writeLut c.lutFull

/-- The table a `REFRESH` sends: chosen on the count that includes it (R162, R163). -/
def refreshTable (mode : RefreshMode) (s : State) : Waveform :=
  chooseWaveform mode (s.refreshCounter + 1) s.cfg.N

/-- What `REFRESH` emits before its table (R160, R164). -/
def pictureEvents (s : State) : List Event :=
  windowEvents s.cfg ++ transferEvents s.cfg.cmd.writeRam (Memory.bytes s.cfg.fbBytes s.fb)

/-- What `REFRESH` emits before its busy wait (R160, R164). -/
def refreshEvents (mode : RefreshMode) (s : State) : List Event :=
  pictureEvents s ++ transferEvents s.cfg.cmd.writeLut (s.cfg.lut (refreshTable mode s)) ++ activationEvents s.cfg

/-- The state in which `REFRESH` begins its busy wait. -/
def refreshSent (mode : RefreshMode) (s : State) : State :=
  { s with
    refreshCounter := s.refreshCounter + 1
    dc := .driven .low
    flags := s.flags.lutSent (refreshTable mode s)
    out := s.out ++ refreshEvents mode s }

section
variable {s : State}

theorem exec_init (hd : s.drv = .uninitialized) :
    exec .init s =
      .next { waitBusy (resetPulse s) with
        fb := Memory.fillLight s.cfg.fbBytes s.fb
        drv := .ready
        refreshCounter := 0
        status := .ok
        dc := .driven .high
        flags := (waitBusy (resetPulse s)).flags.lutSent .fullUpdate
        out := (waitBusy (resetPulse s)).out ++ initEvents s.cfg } := by
  rw [exec, execInit, if_pos hd, resetSequence, sendSwReset, sendTransfer_eq, sendConfiguration_eq, sendWriteLut,
    loadLut_eq, dcAfter_lut]
  simp [complete, State.setStatus, State.setDrv, State.setCounter, State.setFb, initEvents, Cfg.lut]

theorem exec_refresh (mode : RefreshMode) (hd : s.drv = .ready) :
    exec (.refresh mode) s = .next { waitBusy (refreshSent mode s) with status := .ok } := by
  have hsent : sendActivation (sendWriteLut (refreshTable mode s)
      (sendWriteRam (sendWindow (s.setCounter (s.refreshCounter + 1))))) = refreshSent mode s := by
    rw [sendWindow_eq, sendWriteRam, sendTransfer_eq, sendWriteLut, loadLut_eq, sendActivation_eq]
    simp [refreshSent, refreshEvents, pictureEvents, State.setCounter, dcAfter]
  rw [← hsent]
  exact if_pos hd

theorem exec_sleep (hd : s.drv = .ready) :
    exec .sleep s =
      .next { s with
        dc := dcAfter s.cfg.pay.deepSleep
        out := s.out ++ transferEvents s.cfg.cmd.deepSleep s.cfg.pay.deepSleep
        drv := .sleeping
        status := .ok } := by
  rw [exec, execSleep, if_pos hd, sendDeepSleep, sendTransfer_eq]
  rfl

theorem exec_wakeup (hd : s.drv = .sleeping) :
    exec .wakeup s =
      .next { waitBusy (resetPulse s) with
        dc := .driven .low
        out := (waitBusy (resetPulse s)).out ++ [.byte .low s.cfg.cmd.swReset]
        drv := .ready
        status := .ok } := by
  have hcfg : (waitBusy (resetPulse s)).cfg = s.cfg := by simp
  rw [exec, execWakeup, if_pos hd, resetSequence, sendSwReset, sendTransfer_eq, ← hcfg]
  rfl

end

/-- Settles O36. -/
theorem initSendsItsSequence : Obligations.InitSendsItsSequence := by
  refine ⟨fun _ => exec_init_refused, fun s hd hfb =>
    ⟨⟨Memory.fillLight s.cfg.fbBytes s.fb, ?sequence, ?light⟩, ?kept⟩⟩
  case sequence =>
    rw [exec_init hd]
    simp only [initEvents, configurationEvents, List.append_assoc]
    rfl
  case light => exact Memory.read_fillLight hfb.1 s.cfg.fbBytes
  case kept => simp

/-- The table chosen, as R163 says it, with its bytes and what `LUT_LAST` shows of it. -/
theorem refreshTable_spec (mode : RefreshMode) (s : State) :
    s.cfg.lut (refreshTable mode s) =
        (if mode = .fullRefresh ∨ (s.refreshCounter + 1) % s.cfg.N = 0 then s.cfg.lutFull else s.cfg.lutPartial) ∧
      lutLastOf (refreshTable mode s) =
        (if mode = .fullRefresh ∨ (s.refreshCounter + 1) % s.cfg.N = 0 then .full else .part) := by
  unfold refreshTable chooseWaveform
  split <;> exact ⟨rfl, rfl⟩

/-- Settles O38. -/
theorem refreshSendsItsSequence : Obligations.RefreshSendsItsSequence := by
  refine ⟨fun _ mode => exec_refresh_refused mode, fun s mode hd => ?_⟩
  intro cmd pay full b
  have hb : b = refreshSent mode s := by
    obtain ⟨hbytes, hlast⟩ := refreshTable_spec mode s
    simp only [b, cmd, pay, full, refreshSent, refreshEvents, pictureEvents, windowEvents, activationEvents,
      Flags.lutSent, hbytes, hlast, Memory.bytes, List.append_assoc]
  refine ⟨hb ▸ exec_refresh mode hd, ?_⟩
  simp [b, hd]

/-- Settles O39. -/
theorem sleepSendsDeepSleep : Obligations.SleepSendsDeepSleep :=
  ⟨fun _ => exec_sleep_refused, fun _ => exec_sleep⟩

/-- Settles O40. -/
theorem wakeupResetsTheController : Obligations.WakeupResetsTheController := by
  refine ⟨fun _ => exec_wakeup_refused, fun s hd => ⟨exec_wakeup hd, ?_⟩⟩
  simp

/-! Numbers of events (R169). -/

@[simp] theorem polls_nil : polls [] = 0 := rfl

@[simp] theorem polls_resetPulseEvents (c : Cfg) : polls (resetPulseEvents c) = 0 := by
  simp [polls, resetPulseEvents]

@[simp] theorem polls_configurationEvents (c : Cfg) : polls (configurationEvents c) = 0 := by
  simp [configurationEvents]

@[simp] theorem polls_windowEvents (c : Cfg) : polls (windowEvents c) = 0 := by
  simp [windowEvents]

@[simp] theorem polls_activationEvents (c : Cfg) : polls (activationEvents c) = 0 := by
  simp [activationEvents]

/-- What R169 says of an operation that waits, sends `fixed` events beside the wait, and so takes the state `s` to `t` and
appends `es`. -/
def WaitCounts (s t : State) (es : List Event) (fixed : Nat) : Prop :=
  t.out = s.out ++ es ∧ t.pollCount = s.pollCount + polls es ∧ 1 ≤ polls es ∧ polls es ≤ s.cfg.pollMax ∧
    (t.flags.tmoLast = false → es.length = fixed + (2 * polls es - 1)) ∧
    (t.flags.tmoLast = true → polls es = s.cfg.pollMax ∧ es.length = fixed + (2 * s.cfg.pollMax + 1))

/-- An instruction with one busy wait, begun in a state `b` that `s` came to by emitting `pre`, and `post` emitted after
the wait. -/
theorem waitCounts_of_waitBusy {s b t : State} {i : Instr} {pre post : List Event} {fixed : Nat}
    (h : exec i s = .next t) (hcfg : b.cfg = s.cfg) (hpoll : b.pollCount = s.pollCount) (hpre : b.out = s.out ++ pre)
    (htpoll : t.pollCount = (waitBusy b).pollCount) (htmo : t.flags.tmoLast = (waitBusy b).flags.tmoLast)
    (hpost : t.out = (waitBusy b).out ++ post) (hpolls : polls pre + polls post = 0)
    (hfixed : pre.length + post.length = fixed) : ∃ t es, exec i s = .next t ∧ WaitCounts s t es fixed := by
  obtain ⟨es, f, k, he, -, -, -, -, hk, -, hp, hlow, htimeout⟩ := waitBusy_cases b
  rw [he] at htpoll htmo hpost
  rw [hcfg] at hk htimeout
  have hsamples : polls (pre ++ es ++ post) = k := by
    simp only [polls_append]
    omega
  have hlength : (pre ++ es ++ post).length = fixed + es.length := by
    simp only [List.length_append]
    omega
  have hpos : 1 ≤ k := by
    cases hf : f.tmoLast with
    | false => exact (hlow hf).1
    | true => exact (htimeout hf).1 ▸ s.cfg.pollMax_lower
  refine ⟨t, pre ++ es ++ post, h, ?_⟩
  rw [WaitCounts, hsamples, hlength, hpost, hpre, htpoll, hpoll, htmo]
  refine ⟨by simp only [List.append_assoc], rfl, hpos, hk, fun hf => ?_, fun hf => ?_⟩
  · rw [(hlow hf).2]
  · obtain ⟨hmax, hes⟩ := htimeout hf
    exact ⟨hmax, by rw [hes]⟩

theorem resetPulse_out (s : State) : (resetPulse s).out = s.out ++ resetPulseEvents s.cfg := by
  rw [resetPulse_eq, resetPulseEvents]

section
variable {s : State}

theorem exec_init_waitCounts (hd : s.drv = .uninitialized) :
    ∃ t es, exec .init s = .next t ∧
      WaitCounts s t es (6 + 1 + 6 + s.cfg.pay.driverOutputControl.length + s.cfg.pay.boosterSoftStart.length +
        s.cfg.pay.writeVcom.length + s.cfg.pay.dummyLinePeriod.length + s.cfg.pay.gateTime.length +
        s.cfg.pay.dataEntryMode.length + 31) := by
  refine waitCounts_of_waitBusy (exec_init hd) (resetPulse_cfg s) (resetPulse_pollCount s) (resetPulse_out s)
    rfl rfl rfl (by simp [initEvents]) ?_
  simp only [initEvents, configurationEvents, resetPulseEvents, List.length_append, length_transferEvents,
    List.length_cons, List.length_nil, s.cfg.lutFull_length]
  omega

theorem exec_refresh_waitCounts (mode : RefreshMode) (hd : s.drv = .ready) :
    ∃ t es, exec (.refresh mode) s = .next t ∧
      WaitCounts s t es (4 + s.cfg.pay.ramXRange.length + s.cfg.pay.ramYRange.length + s.cfg.pay.ramXCounter.length +
        s.cfg.pay.ramYCounter.length + 1 + s.cfg.fbBytes + 31 + 1 + s.cfg.pay.displayUpdateControl2.length + 2) := by
  refine waitCounts_of_waitBusy (b := refreshSent mode s) (exec_refresh mode hd) rfl rfl rfl rfl rfl
    (List.append_nil _).symm (by simp [refreshEvents, pictureEvents]) ?_
  simp only [refreshEvents, pictureEvents, windowEvents, activationEvents, List.length_append, length_transferEvents,
    List.length_nil, length_lut, Memory.bytes, List.length_map, List.length_range]
  omega

theorem exec_wakeup_waitCounts (hd : s.drv = .sleeping) :
    ∃ t es, exec .wakeup s = .next t ∧ WaitCounts s t es (6 + 1) :=
  waitCounts_of_waitBusy (post := transferEvents s.cfg.cmd.swReset []) (exec_wakeup hd) (resetPulse_cfg s)
    (resetPulse_pollCount s) (resetPulse_out s) rfl rfl rfl (by simp) rfl

end

/-- Settles O44. -/
theorem eventCounts : Obligations.EventCounts := by
  refine fun s => ⟨?pulse, exec_init_waitCounts, exec_refresh_waitCounts,
    fun hd => ⟨_, _, exec_sleep hd, rfl, rfl, ?sleep⟩, exec_wakeup_waitCounts⟩
  case pulse => simp [resetPulse_out, resetPulseEvents]
  case sleep => simp

/-! The cadence of full refreshes (R168). -/

/-- What an instruction does to the count, once `Uninitialized` is left: it counts the refreshes that run. -/
theorem Effect.counts {s t : State} {i : Instr} (e : Effect s i t) (h : s.drv ≠ .uninitialized) :
    t.refreshCounter = s.refreshCounter + if isRefresh i = true ∧ s.drv = .ready then 1 else 0 := by
  by_cases hm : runsIn i = some s.drv
  · obtain ⟨-, hd, -⟩ | ⟨⟨mode, rfl⟩, hd, -, ht⟩ | ⟨rfl, hd, -, ht⟩ | ⟨rfl, hd, -, ht⟩ := e.moved hm
    · exact absurd hd h
    · rw [ht, if_pos ⟨rfl, hd⟩]
    · rw [ht, if_neg fun h => absurd h.1 nofun, Nat.add_zero]
    · rw [ht, if_neg fun h => absurd h.1 nofun, Nat.add_zero]
  · rw [(e.unmoved hm).2, if_neg, Nat.add_zero]
    rintro ⟨hi, hd⟩
    cases i with
    | refresh mode => exact hm (congrArg some hd.symm)
    | _ => exact absurd hi nofun

/-- Any instructions run from an initialized state complete, and leave it initialized with the refreshes that ran
counted. -/
theorem execAll_counts (ops : List Instr) {s : State} (h : s.drv ≠ .uninitialized) :
    ∃ t, execAll ops s = .next t ∧ t.drv ≠ .uninitialized ∧ t.cfg = s.cfg ∧
      t.refreshCounter = s.refreshCounter + refreshesRun ops s := by
  induction ops generalizing s with
  | nil => exact ⟨s, rfl, h, rfl, rfl⟩
  | cons i ops ih =>
    obtain ⟨u, hu, e⟩ := exec_leaves s i
    obtain ⟨t, ht, hinit, hcfg, hcount⟩ := ih (e.initialized h)
    refine ⟨t, (execAll_cons hu ops).trans ht, hinit, hcfg.trans e.parameters.1, ?_⟩
    rw [hcount, e.counts h, refreshesRun_cons hu, Nat.add_assoc]

/-- Refreshes issued one after another in `Ready` all run. -/
theorem refreshesRun_refreshes (modes : List RefreshMode) {s : State} (hd : s.drv = .ready) :
    refreshesRun (modes.map .refresh) s = modes.length := by
  induction modes generalizing s with
  | nil => rfl
  | cons mode modes ih =>
    have hready : (waitBusy (refreshSent mode s)).drv = .ready := (waitBusy_drv _).trans hd
    rw [List.map_cons, refreshesRun_cons (exec_refresh mode hd), if_pos ⟨rfl, hd⟩, ih (by exact hready),
      List.length_cons, Nat.add_comm]

/-- The other codes that `REFRESH` sends differ from that of `WRITE_LUT` (R5). -/
theorem writeLut_ne_refreshCodes (c : Cfg) :
    c.cmd.writeLut ≠ c.cmd.setRamXRange ∧ c.cmd.writeLut ≠ c.cmd.setRamYRange ∧
      c.cmd.writeLut ≠ c.cmd.setRamXCounter ∧ c.cmd.writeLut ≠ c.cmd.setRamYCounter ∧
      c.cmd.writeLut ≠ c.cmd.writeRam ∧ c.cmd.writeLut ≠ c.cmd.displayUpdateControl2 ∧
      c.cmd.writeLut ≠ c.cmd.masterActivation ∧ c.cmd.writeLut ≠ c.cmd.terminateFrame := by
  have h := c.cmd_distinct
  simp only [CmdCodes.toList, List.nodup_cons, List.mem_cons, not_or] at h
  grind

/-- A `REFRESH` that runs sends one table: no `WRITE_LUT` stands before or after it (R163). -/
theorem refresh_sends_one_table (mode : RefreshMode) {s : State} (hd : s.drv = .ready) :
    ∃ u before after, exec (.refresh mode) s = .next u ∧ u.drv = .ready ∧
      u.refreshCounter = s.refreshCounter + 1 ∧ u.flags.lutLast = lutLastOf (refreshTable mode s) ∧
      u.out = s.out ++ before ++
        transferEvents s.cfg.cmd.writeLut (s.cfg.lut (refreshTable mode s)) ++ after ∧
      Event.byte .low s.cfg.cmd.writeLut ∉ before ++ after := by
  obtain ⟨es, f, k, he, hbytes, hlut, -⟩ := waitBusy_cases (refreshSent mode s)
  refine ⟨_, pictureEvents s, activationEvents s.cfg ++ es, exec_refresh mode hd, ?_, ?_, ?_, ?_, ?_⟩
  · exact (waitBusy_drv _).trans hd
  · exact waitBusy_refreshCounter _
  · exact waitBusy_lutLast _
  · rw [he]
    simp only [refreshSent, refreshEvents, List.append_assoc]
  · simp [pictureEvents, windowEvents, activationEvents, writeLut_ne_refreshCodes, hbytes .low s.cfg.cmd.writeLut]

/-- Settles O43. -/
theorem everyNthRefreshIsFull : Obligations.EveryNthRefreshIsFull := by
  refine ⟨fun s hd => ⟨_, exec_init hd, rfl, rfl⟩, fun ops mode s hd hzero => ?_,
    fun modes s => refreshesRun_refreshes modes⟩
  obtain ⟨t, ht, hinit, hcfg, hcount⟩ := execAll_counts ops (s := s) (by rw [hd]; nofun)
  rw [hzero, Nat.zero_add] at hcount
  refine ⟨t, ht, hinit, hcount, fun hready => ?_⟩
  obtain ⟨u, before, after, hu, hdrv, hnext, hlut, hout, hone⟩ := refresh_sends_one_table mode hready
  obtain ⟨hbytes, hlast⟩ := refreshTable_spec mode t
  rw [hcount, hcfg] at hbytes hlast
  rw [hcfg] at hout hone
  exact ⟨u, before, after, hu, hdrv, hnext.trans (by rw [hcount]), hlut.trans hlast, hbytes ▸ hout, hone⟩

/-! The bus commands alone. -/

/-- Settles O45. -/
theorem bareBusCommandsSendOneByte : Obligations.BareBusCommandsSendOneByte := by
  intro s
  have hbare (code : Byte) {i : Instr} (h : exec i s = .next (sendTransfer code [] s)) :
      exec i s = .next { s with dc := .driven .low, out := s.out ++ [.byte .low code] } := by
    rw [h, sendTransfer_eq]
    rfl
  exact ⟨hbare _ rfl, hbare _ rfl, hbare _ rfl⟩

/-- Settles O46: each of the twelve alone is one transfer. -/
theorem payloadBusCommandsSendTheirPayload : Obligations.PayloadBusCommandsSendTheirPayload := by
  intro s i code data h
  have hexec : exec i s = .next (sendTransfer code data s) := by
    fin_cases h <;> rfl
  rw [hexec, sendTransfer_eq]
  rfl

/-- Settles O47. -/
theorem writeLutSendsThirtyBytes : Obligations.WriteLutSendsThirtyBytes := by
  intro s t
  have hexec : exec (.writeLut t) s = .next (loadLut t s) := rfl
  refine ⟨length_lut s.cfg t, ?_⟩
  rw [hexec, loadLut_eq, dcAfter_lut]
  cases t <;> rfl

end Sys2Proof.Machine
end

section
/-! PROOFS of the family `43_panel_bus_commands.md`, where a step stops: every instruction completes (R226), so a step
without a next state is one that found no instruction in the bus request. -/

namespace Sys2Proof.Machine

/-- A byte names no bus command exactly when it is none of the seventeen codes (R190, R209). -/
theorem decodeBus_eq_none_iff {c : Cfg} {code : Byte} {data : List Byte} :
    decodeBus c (code :: data) = none ↔ code ∉ c.cmd.toList := by
  obtain ⟨-, hcodes⟩ := busCommandsDecodeBack c
  obtain ⟨hnamed, -⟩ := hcodes code data
  rw [← hnamed, Option.isSome_iff_ne_none, not_not]

/-- A bus request is pending whose command byte is no code of the configuration. -/
def UnknownRequest (s : State) : Prop :=
  ∃ code data, s.busRequest = code :: data ∧ code ∉ s.cfg.cmd.toList

section
variable {s : State}

theorem step_of_unknownRequest (h : UnknownRequest s) : step s = .fault .unknownBusCommand := by
  obtain ⟨code, data, hreq, hcode⟩ := h
  have hbus : fetchBus s = .unknownBus := by
    rw [fetchBus, hreq, decodeBus_eq_none_iff.2 hcode]
  simp [step, fetch, hreq, hbus]

/-- Every other step waits, rejects a word or runs an instruction to its end. -/
theorem step_completes (h : ¬ UnknownRequest s) : ∃ t, step s = .next t := by
  have hexec (i : Instr) (s' : State) : ∃ t, exec i s' = .next t :=
    let ⟨t, ht, _⟩ := exec_leaves s' i
    ⟨t, ht⟩
  cases hreq : s.busRequest with
  | nil =>
    cases hword : decode s.port with
    | incomplete => exact ⟨s, step_of_incomplete hreq hword⟩
    | legal i rest => rw [step_of_legal hreq hword]; exact hexec i _
    | illegal why rest => exact ⟨_, step_of_illegal hreq hword⟩
  | cons code data =>
    have hdec : decodeBus s.cfg s.busRequest ≠ none := by
      rw [hreq, Ne, decodeBus_eq_none_iff]
      exact fun hcode => h ⟨code, data, hreq, hcode⟩
    obtain ⟨i, hi⟩ := Option.ne_none_iff_exists'.1 hdec
    rw [step_of_busRequest (by simp [hreq]) hi]
    exact hexec i _

end

/-- Settles O11: a step on an unknown request faults, and every other step completes. -/
theorem stepStopsOnlyOnAnUnknownBusCommand : Obligations.StepStopsOnlyOnAnUnknownBusCommand := by
  intro s
  by_cases h : UnknownRequest s
  · rw [step_of_unknownRequest h]
    exact ⟨nofun, fun f => ⟨fun hf => ⟨(Host.Outcome.fault.inj hf).symm, h⟩, fun ⟨hf, _⟩ => hf ▸ rfl⟩⟩
  · obtain ⟨t, ht⟩ := step_completes h
    rw [ht]
    exact ⟨nofun, fun f => ⟨nofun, fun ⟨_, hunknown⟩ => absurd hunknown h⟩⟩

end Sys2Proof.Machine
end

section
/-! PROOFS of the family `60_exceptions.md`: no operation traps (R220, R226). The case analysis over the instructions and
the branches of each operation, refusals and timeouts included, is that of `exec_leaves`. -/

namespace Sys2Proof.Machine

/-- Settles O10: what an instruction leaves behind is a next state, with an effect of its own kind. -/
theorem everyInstructionCompletes : Obligations.EveryInstructionCompletes := by
  intro i s
  obtain ⟨t, ht, -⟩ := exec_leaves s i
  exact ⟨t, ht⟩

end Sys2Proof.Machine
end
